-- ==== Sys2Proof/Word.lean ====
section
/-! DEFINITION. The word types of the machine (00_scope.md R4, R7): a byte, a 16-bit word, and the instruction
fields of R8. All values are unsigned. -/

namespace Sys2Proof

/-- An 8-bit value: a memory byte, a general register, a timer (R4). -/
abbrev Byte := BitVec 8

/-- A 16-bit value: `I`, `PC`, a call-stack slot, an instruction word (R4). -/
abbrev Word := BitVec 16

/-- A register number 0 to 15, the field X or Y (R8, R62). -/
abbrev Reg := BitVec 4

/-- A nibble 0 to 15, the field N (R8, R62). -/
abbrev Nibble := BitVec 4

/-- A 12-bit address 0x000 to 0xFFF, the field NNN (R8, R62). -/
abbrev Addr12 := BitVec 12

/-- The 80 font bytes: 16 glyphs of 5 bytes (R4, R28). -/
abbrev Font := Vector Byte 80

end Sys2Proof
end

