-- ==== Sys2Proof/Config.lean ====
section
/-! DEFINITION. What is fixed when an instance of the block is built (00_scope.md R5, R6; the table "Parameters a model
takes as arguments" of 92_eei_decisions.md), and the free values the spec leaves OPEN. -/

namespace Sys2Proof

/-- What an access above 0xFFF does (20_memory.md R44, decision D2). -/
inductive OobPolicy
  | fault   -- the decided policy: `MemoryBounds`
  | wrap    -- the other policy the source permits: every address mod 4096
  deriving DecidableEq, Repr

/-- What a key test with a key index above 15 does (44_keypad_timers.md R140, decision D5). -/
inductive KeyPolicy
  | fault   -- the decided policy: `KeyIndexRange`
  | mask4   -- the alternative: the low four bits of the index
  deriving DecidableEq, Repr

/-- The parameters of an instance (R5, R6). Held in `State`, written by nothing (assumption log 1). -/
structure Config where
  qShift    : Bool       -- Q_SHIFT: 8XY6 and 8XYE take their source from VY
  qJump0    : Bool       -- Q_JUMP0: BNNN adds V0 and not VX
  qInci     : Bool       -- Q_INCI: FX55 and FX65 add X+1 to I afterwards
  oobPolicy : OobPolicy
  keyPolicy : KeyPolicy
  font      : Font
  deriving DecidableEq, Repr

/-- Glyphs 0 to 3 of the table of R28. Glyph 0 is the source's.
PRESUMED (unsafe): the other bytes are general knowledge, assumption log 4. -/
def Config.glyphs0to3 : List Byte :=
  [0xF0, 0x90, 0x90, 0x90, 0xF0] ++ [0x20, 0x60, 0x20, 0x20, 0x70] ++
  [0xF0, 0x10, 0xF0, 0x80, 0xF0] ++ [0xF0, 0x10, 0xF0, 0x10, 0xF0]

/-- Glyphs 4 to 7 of the table of R28. PRESUMED (unsafe): general knowledge, assumption log 4. -/
def Config.glyphs4to7 : List Byte :=
  [0x90, 0x90, 0xF0, 0x10, 0x10] ++ [0xF0, 0x80, 0xF0, 0x10, 0xF0] ++
  [0xF0, 0x80, 0xF0, 0x90, 0xF0] ++ [0xF0, 0x10, 0x20, 0x40, 0x40]

/-- Glyphs 8 to B of the table of R28. PRESUMED (unsafe): general knowledge, assumption log 4. -/
def Config.glyphs8toB : List Byte :=
  [0xF0, 0x90, 0xF0, 0x90, 0xF0] ++ [0xF0, 0x90, 0xF0, 0x10, 0xF0] ++
  [0xF0, 0x90, 0xF0, 0x90, 0x90] ++ [0xE0, 0x90, 0xE0, 0x90, 0xE0]

/-- Glyphs C to F of the table of R28. PRESUMED (unsafe): general knowledge, assumption log 4. -/
def Config.glyphsCtoF : List Byte :=
  [0xF0, 0x80, 0x80, 0x80, 0xF0] ++ [0xE0, 0x90, 0x90, 0x90, 0xE0] ++
  [0xF0, 0x80, 0xF0, 0x80, 0xF0] ++ [0xF0, 0x80, 0xF0, 0x80, 0x80]

/-- The table of R28, glyph after glyph, top row first: the default of the parameter `FONT` (D16). -/
def Config.defaultFont : Font :=
  ⟨(Config.glyphs0to3 ++ Config.glyphs4to7 ++ Config.glyphs8toB ++ Config.glyphsCtoF).toArray, by decide⟩

/-- The default instance: all quirk flags 0 (modern, R5), both policies as decided (R6), the font of R28. -/
def Config.modern : Config where
  qShift    := false
  qJump0    := false
  qInci     := false
  oobPolicy := .fault
  keyPolicy := .fault
  font      := Config.defaultFont

/-- The five bytes of glyph 0, the only font bytes the source gives (R28, D16). -/
def Config.glyph0 : List Byte := [0xF0, 0x90, 0x90, 0x90, 0xF0]

/-- The free random byte of iteration `n` (41_alu.md R112, D7: "a free 8-bit draw under no law").
Used where `State.inputs` gives none (assumption log 5). -/
opaque Config.freeRnd : Nat → Byte

/-- What the environment's `setKeypad` writes after iteration `n`, if it is called (44_keypad_timers.md R146, D20).
Used where `State.inputs` gives none (assumption log 5). -/
opaque Config.freeKeys : Nat → Option (BitVec 16)

/-- Whether a `TimerTick` occurs after iteration `n` (60_exceptions.md R161, D8: the schedule is OPEN). Nothing of it is
known here, not even fairness: that is the premise `FairTicks` (Safety.lean) of a claim that needs it.
Used where `State.inputs` gives none (assumption log 5). -/
opaque Config.freeTick : Nat → Bool

end Sys2Proof
end

