-- ==== Sys2Proof/Machine/State.lean ====
section
/-! DEFINITION. The state of the machine (10_state.md R10, R27), plain data; its faults and refusals; the state after
reset (70_reset_and_hazards.md R170). -/

namespace Sys2Proof.Machine

/-- `MEM` (R19, R40): the bytes that differ from their reset contents, addresses strictly rising (`Memory.wf`). -/
abbrev Memory := List Host.Cell

/-- The cause of a fault record (60_exceptions.md R152). -/
inductive Cause
  /-- No cause: the model's own value, held by `FREC` where no fault has been raised since reset (assumption log 8). -/
  | noCause
  | stackOverflow
  | stackUnderflow
  | memoryBounds
  | keyIndexRange
  deriving DecidableEq, Repr

/-- The fault record `FREC` (R24, R151). The widths of `addr` and `info` are the model's (assumption log 9). -/
structure FaultRecord where
  cause : Cause
  addr  : Word     -- the address the faulting instruction was fetched from
  op    : Word     -- its word; 0 for a fault during fetch
  info  : Word     -- depends on the cause (R152)
  deriving DecidableEq, Repr

/-- An event of the output stream to the display sink (43_display.md R136). -/
inductive SinkEvent
  | pixel (x : Fin 64) (y : Fin 32) (on : Bool)
  | clear
  deriving DecidableEq, Repr

/-- What the environment does in one iteration of the run loop (R9, R163, R173): the random byte it supplies to the cycle,
and in the gap after the cycle an optional `setKeypad` and an optional `TimerTick` (at most one per gap, R161). -/
structure LoopInput where
  rnd  : Byte
  keys : Option (BitVec 16)
  tick : Bool
  deriving DecidableEq, Repr

/-- The state of the block (R10), its configuration (R5, R6; assumption log 1), and the model's own fields
`inputs`, `iter`, `out`, `started` (assumption logs 5, 12, 22). -/
structure State where
  mem     : Memory                  -- MEM (R19)
  v       : Vector Byte 16          -- V[0] to V[15] (R11)
  i       : Word                    -- I (R13)
  pc      : Word                    -- PC (R14)
  stack   : Vector Word 16          -- S[0] to S[15] (R16)
  sp      : Fin 17                  -- SP, 0 to 16 inclusive (R17)
  disp    : Vector (BitVec 64) 32   -- DISP: row y holds DISP[x][y] as bit x (R18; assumption log 26)
  kp      : BitVec 16               -- KP (R22)
  dt      : Byte                    -- DT (R20)
  st      : Byte                    -- ST (R21)
  fatal   : Bool                    -- FATAL (R24)
  frec    : FaultRecord             -- FREC (R24)
  cfg     : Config                  -- the parameters of the instance (R5, R6, R23)
  inputs  : List LoopInput          -- the environment's inputs to come, next first; free draws after the last
  iter    : Nat                     -- iterations of the run loop so far: the index of the free draws
  out     : List SinkEvent          -- the events emitted to the sink, oldest first (R136)
  started : Bool                    -- whether a cycle has run since reset (R163, when `load` is allowed)
  deriving DecidableEq, Repr

/-- Why the machine stops with a fault: never. The fatal conditions of this hardware are a STATE the spec describes
(`FATAL`, R24, R151), so raising one is a next state; safe (assumption log 7). Nobody raises a constructor of this type. -/
inductive Fault
  deriving DecidableEq, Repr

/-- Why there is no meaning. -/
inductive Refusal
  /-- An instruction with no meaning yet, raised by `exec`'s arms only; safe. No arm raises it now. -/
  | notModelled (mnemonic : String)
  /-- `load` outside its contract (R174, R163, D22: "a load that violates it is refused and has no meaning"), raised by
  `hostLoad`; safe. -/
  | loadContract
  deriving DecidableEq, Repr

/-- The outcome of an instruction's meaning, a cycle or a step. -/
abbrev Result := Host.Outcome State Fault Refusal

/-- The machine constructed with the parameters `cfg` and then reset (R5, R27, R170, R173 steps 1 and 2).
`frec` is DESIGN CHOICE (unsafe: R27 leaves it unspecified), assumption log 8; `inputs`, `iter`, `out`, `started` are the
model's own. -/
def State.init (cfg : Config) : State where
  mem     := []
  v       := Vector.replicate 16 0
  i       := 0x0000
  pc      := 0x0200
  stack   := Vector.replicate 16 0
  sp      := 0
  disp    := Vector.replicate 32 0
  kp      := 0x0000
  dt      := 0x00
  st      := 0x00
  fatal   := false
  frec    := { cause := .noCause, addr := 0, op := 0, info := 0 }
  cfg     := cfg
  inputs  := []
  iter    := 0
  out     := []
  started := false

/-- The machine right after reset, with the default parameters (R5 "the default of each is 0", R6, R28). -/
def State.reset : State := State.init Config.modern

end Sys2Proof.Machine
end

