-- ==== Sys2Proof/Machine/Ops.lean ====
section
/-! DEFINITION. The named operations over memory, registers, stack, display and environment, and taking a fault. -/

namespace Sys2Proof.Machine

/-! ### Memory (20_memory.md) -/

/-- The size of `MEM` (R40). -/
def memSize : Nat := 4096

/-- The reset contents of `MEM` (R27): what an unlisted address reads as. -/
def unlisted (font : Font) (a : Nat) : Byte :=
  if h : 0x050 ≤ a ∧ a < 0x0A0 then font[a - 0x050]'(by omega) else 0x00

/-- The byte of `MEM` at an address. -/
def Memory.read (font : Font) : Memory → Nat → Byte
  | [], a => unlisted font a
  | (b, u) :: m, a => if a = b then u else Memory.read font m a

/-- The list without the address `a`. -/
def Memory.erase (m : Memory) (a : Nat) : Memory := m.filter (fun c => c.1 != a)

/-- The list with the byte `u` at `a`, in its place. -/
def Memory.insert : Memory → Nat → Byte → Memory
  | [], a, u => [(a, u)]
  | (b, w) :: m, a, u =>
    if a < b then (a, u) :: (b, w) :: m
    else if a = b then (a, u) :: m
    else (b, w) :: Memory.insert m a u

/-- `MEM[a] <- u`. A byte equal to the reset contents is not listed; outside `MEM` there is no byte to write. -/
def Memory.write (font : Font) (m : Memory) (a : Nat) (u : Byte) : Memory :=
  if a < memSize then
    if u = unlisted font a then m.erase a else m.insert a u
  else m

/-- The canonical form: addresses strictly rising and inside `MEM`, no entry equal to the reset contents. -/
abbrev Memory.wf (font : Font) (m : Memory) : Prop :=
  m.Pairwise (fun c d => c.1 < d.1) ∧ ∀ c ∈ m, c.1 < memSize ∧ c.2 ≠ unlisted font c.1

/-- The address an access to `a` reaches: `a` itself, or `a mod 4096` under `OOB_POLICY = wrap` (R44). -/
def effAddr (cfg : Config) (a : Nat) : Nat :=
  match cfg.oobPolicy with
  | .fault => a
  | .wrap => a % memSize

/-- `MemRead(a, 1)` of R43, after the check of R44. -/
def State.readByte (s : State) (a : Nat) : Byte := Memory.read s.cfg.font s.mem (effAddr s.cfg a)

/-- `MemWrite(a, 1, u)` of R43, after the check of R44. -/
def State.writeByte (s : State) (a : Nat) (u : Byte) : State :=
  { s with mem := Memory.write s.cfg.font s.mem (effAddr s.cfg a) u }

/-- The bounds check of R44 and R126 on the `count` addresses from `base`: under `OOB_POLICY = fault` the lowest one above
0xFFF, if there is one; under `wrap` none. -/
def firstBad (cfg : Config) (base : Word) (count : Nat) : Option Word :=
  match cfg.oobPolicy with
  | .wrap => none
  | .fault =>
    if count ≠ 0 ∧ base.toNat + count - 1 > 0xFFF then
      some (if base.toNat > 0xFFF then base else 0x1000)
    else none

/-! ### Registers (10_state.md R11 to R15) -/

/-- `V[r]` (R11). -/
def State.reg (s : State) (r : Reg) : Byte := s.v[r.toNat]'(by have := r.isLt; omega)

/-- `V[r] <- u` (R11). -/
def State.setReg (s : State) (r : Reg) (u : Byte) : State :=
  { s with v := s.v.set r.toNat u (by have := r.isLt; omega) }

/-- The number of VF (R12). -/
def vf : Reg := 0xF

/-- `I <- a` (R13). -/
def State.setI (s : State) (a : Word) : State := { s with i := a }

/-- `PC <- a` (R14). -/
def State.setPc (s : State) (a : Word) : State := { s with pc := a }

/-- `PC <- (PC + 2) mod 65536`: the advance before dispatch (R14, R80), and a skip (40_control_flow.md R91). -/
def State.advance (s : State) : State := s.setPc (s.pc + 2)

/-- `PC <- (PC - 2) mod 65536` (44_keypad_timers.md R142). -/
def State.rewind (s : State) : State := s.setPc (s.pc - 2)

/-! ### Call stack (10_state.md R16, R17) -/

/-- `S[SP] <- a; SP <- SP + 1`; none where the stack is full (R16, R17, R153). -/
def State.push (s : State) (a : Word) : Option State :=
  if h : s.sp.val < 16 then
    some { s with stack := s.stack.set s.sp.val a h, sp := ⟨s.sp.val + 1, by omega⟩ }
  else none

/-- `SP <- SP - 1`, and the value of `S[SP]`; none where the stack is empty (R16, R17, R154). -/
def State.pop (s : State) : Option (Word × State) :=
  if h : 0 < s.sp.val then
    some (s.stack[s.sp.val - 1]'(by have := s.sp.isLt; omega),
      { s with sp := ⟨s.sp.val - 1, by have := s.sp.isLt; omega⟩ })
  else none

/-! ### Display (43_display.md) -/

/-- `DISP[x][y]` (10_state.md R18). -/
def State.pixel (s : State) (x : Fin 64) (y : Fin 32) : Bool := s.disp[y.val].getLsbD x.val

/-- `DISP[x][y] <- DISP[x][y] ^ 1` (R132). -/
def flipPixel (d : Vector (BitVec 64) 32) (x : Fin 64) (y : Fin 32) : Vector (BitVec 64) 32 :=
  d.set y.val (d[y.val] ^^^ BitVec.twoPow 64 x.val)

/-- `emit e` (00_scope.md R7, R136). -/
def State.emit (s : State) (e : SinkEvent) : State := { s with out := s.out ++ [e] }

/-- The compositor's `clear()` (R130, R131): zero the bitmap, notify the sink. -/
def State.clearDisplay (s : State) : State := State.emit { s with disp := Vector.replicate 32 0 } .clear

/-- `getDisplay()`: the read-only snapshot (R137). -/
def State.getDisplay (s : State) (x : Fin 64) (y : Fin 32) : Bool := s.pixel x y

/-! ### Fatal conditions (60_exceptions.md R151, R152) -/

/-- The cause codes of R152. The code of `noCause` is the model's own (assumption log 8). -/
def causeCode : Cause → Nat
  | .noCause => 0
  | .stackOverflow => 1
  | .stackUnderflow => 2
  | .memoryBounds => 3
  | .keyIndexRange => 4

/-- Entering FATAL with a record: nothing else changes (R151 (1) to (5)). -/
def State.enterFatal (s : State) (r : FaultRecord) : State := { s with fatal := true, frec := r }

/-- `raise cause(info)` by the instruction whose word is `op`, at the state it runs in: `PC` already holds `a + 2`, so
the address fetched from is `PC - 2`, and `PC` stays `a + 2` (R151 (3), (4)). -/
def raise (cause : Cause) (op info : Word) (s : State) : Result :=
  .next (s.enterFatal { cause := cause, addr := s.pc - 2, op := op, info := info })

/-- `raise MemoryBounds(e)` by the fetch: the advance has not happened, the word is 0, `PC` stays `a` (R151 (3), (4)). -/
def raiseFetch (e : Word) (s : State) : Result :=
  .next (s.enterFatal { cause := .memoryBounds, addr := s.pc, op := 0, info := e })

/-! ### Timers (60_exceptions.md R160) -/

/-- One countdown: decrement if nonzero (R160). -/
def countDown (t : Byte) : Byte := if t = 0 then 0 else t - 1

/-- The event `TimerTick`, if it occurs; no effect while FATAL (R159, R160). -/
def State.tickIf (s : State) (occurs : Bool) : State :=
  if s.fatal then s
  else { s with
    dt := if occurs then countDown s.dt else s.dt
    st := if occurs then countDown s.st else s.st }

/-- `TimerTick()` (R160). -/
def State.timerTick (s : State) : State := s.tickIf true

/-! ### The environment (60_exceptions.md R163) -/

/-- `setKeypad`, if it is called; no effect while FATAL (R22, R159). -/
def State.keysIf (s : State) (keys : Option (BitVec 16)) : State :=
  if s.fatal then s else { s with kp := keys.getD s.kp }

/-- `setKeypad(state)`: all 16 bits at once (R22, 44_keypad_timers.md R146). -/
def State.setKeypad (s : State) (keys : BitVec 16) : State := s.keysIf (some keys)

/-- The environment's input of this iteration: the next one of `inputs`, or after the last one free draws
(R112, R146, R161; assumption log 5). -/
def State.input (s : State) : LoopInput :=
  match s.inputs with
  | e :: _ => e
  | [] => { rnd := Config.freeRnd s.iter, keys := Config.freeKeys s.iter, tick := Config.freeTick s.iter }

/-- The input of this iteration is used up, and a cycle has run. -/
def State.nextIter (s : State) : State :=
  { s with inputs := s.inputs.tail, iter := s.iter + 1, started := true }

/-- The gap after a cycle: `setKeypad`, then `TimerTick`, each if the environment makes it (R9, R161, R173 step 4). -/
def State.gap (s : State) (e : LoopInput) : State := ((s.keysIf e.keys).tickIf e.tick).nextIter

/-- `reset()` (70_reset_and_hazards.md R170), in any state, FATAL included. It changes no parameter, emits no event and
touches nothing outside the block (R171): `cfg`, `inputs`, `iter` and `out` stay. -/
def State.hostReset (s : State) : State :=
  { State.init s.cfg with inputs := s.inputs, iter := s.iter, out := s.out }

/-- Bytes written from an address up. -/
def State.writeBytes (s : State) (a : Nat) : List Byte → State
  | [] => s
  | u :: us => State.writeBytes (s.writeByte a u) (a + 1) us

/-- The largest rom: `4096 - 0x200` bytes (20_memory.md R52). -/
def maxRom : Nat := 3584

/-- `load(bytes)` (R52, R174): after `reset()` and before the first cycle, at most 3584 bytes; otherwise it has no
meaning and is refused (D22; assumption log 22). -/
def State.hostLoad (s : State) (bytes : List Byte) : Result :=
  if bytes.length ≤ maxRom ∧ s.started = false then .next (s.writeBytes 0x200 bytes)
  else .refused .loadContract

end Sys2Proof.Machine
end

