-- ==== Sys2Proof/Machine/Operands.lean ====
section
/-! DEFINITION. The operand forms: register operands chosen by a quirk or a policy, addresses, sprite pixels, decimal
digits, the key scan. -/

namespace Sys2Proof.Machine

/-- The source of 8XY6 and 8XYE: `V[Y]` under `Q_SHIFT`, else `V[X]` (41_alu.md R108, R110). -/
def State.shiftSource (s : State) (x y : Reg) : Byte := if s.cfg.qShift then s.reg y else s.reg x

/-- The register number X of a 12-bit address: `op[11:8]` is the top nibble of `NNN` (40_control_flow.md R90). -/
def topNibble (nnn : Addr12) : Reg := nnn.extractLsb' 8 4

/-- The offset of BNNN: `V[0]` under `Q_JUMP0`, else `V[X]` (R90). -/
def State.jumpOffset (s : State) (nnn : Addr12) : Byte := if s.cfg.qJump0 then s.reg 0 else s.reg (topNibble nnn)

/-- `zext_16(NNN)` (30_encoding.md R62). -/
def zext12 (nnn : Addr12) : Word := nnn.zeroExtend 16

/-- `zext_16` of a byte (00_scope.md R7). -/
def zext8 (u : Byte) : Word := u.zeroExtend 16

/-- The glyph address `0x050 + 5 * V[X]`, no masking (42_index_memory.md R122, D25). -/
def glyphAddr (u : Byte) : Word := 0x050 + 5 * zext8 u

/-- The digits hundreds, tens, ones (42_index_memory.md R123). -/
def decimalDigits (u : Byte) : List Byte :=
  [BitVec.ofNat 8 (u.toNat / 100), BitVec.ofNat 8 (u.toNat / 10 % 10), BitVec.ofNat 8 (u.toNat % 10)]

/-- The key a key test names: the value itself, none above 15; or its low four bits under `KEY_POLICY = mask4`
(44_keypad_timers.md R140). -/
def keyIndex (cfg : Config) (u : Byte) : Option (Fin 16) :=
  match cfg.keyPolicy with
  | .fault => if h : u.toNat < 16 then some ⟨u.toNat, h⟩ else none
  | .mask4 => some ⟨u.toNat % 16, Nat.mod_lt _ (by decide)⟩

/-- `KP[k]` (10_state.md R22). -/
def State.keyDown (s : State) (k : Fin 16) : Bool := s.kp.getLsbD k.val

/-- The lowest pressed key, if any (44_keypad_timers.md R142). -/
def lowestKey (kp : BitVec 16) : Option Nat := (List.range 16).find? (fun k => kp.getLsbD k)

/-- The sprite rows: the `n` bytes at `I` (43_display.md R132, 20_memory.md R53 (c)). -/
def State.spriteRows (s : State) (n : Nibble) : List Byte :=
  (List.range n.toNat).map (fun r => s.readByte (s.i.toNat + r))

/-- The pixels of one row byte in ascending columns: the set bits from bit 7 down, clipped at column 64 (R132, R135). -/
def rowPixels (x0 : Nat) (y : Fin 32) (b : Byte) : List (Fin 64 × Fin 32) :=
  (List.range 8).filterMap (fun c =>
    if h : x0 + c < 64 then
      if b.getLsbD (7 - c) then some (⟨x0 + c, h⟩, y) else none
    else none)

/-- The pixels a sprite at column `x0`, row `y` inverts, rows ascending then columns ascending, clipped at row 32
(R132, R133, R135, R136). -/
def spritePixels (x0 : Nat) : Nat → List Byte → List (Fin 64 × Fin 32)
  | _, [] => []
  | y, b :: bs => if h : y < 32 then rowPixels x0 ⟨y, h⟩ b ++ spritePixels x0 (y + 1) bs else []

end Sys2Proof.Machine
end

