-- ==== Sys2Proof/Machine/Flags.lean ====
section
/-! DEFINITION. The flag computations (10_state.md R12, 41_alu.md R111). Each of the seven flag writers writes VF with 0
or 1, always, and last. -/

namespace Sys2Proof.Machine

/-- The carry of an addition (R106, R111). -/
def carry (a b : Byte) : Bool := decide (a.toNat + b.toNat > 255)

/-- No borrow in `a - b` (R107, R109, R111). -/
def noBorrow (a b : Byte) : Bool := decide (a.toNat ≥ b.toNat)

/-- The bit a right shift by one shifts out (R108). -/
def outRight (src : Byte) : Bool := src.getLsbD 0

/-- The bit a left shift by one shifts out (R110). -/
def outLeft (src : Byte) : Bool := src.getLsbD 7

/-- The sum `I + V[X]` exceeds 0xFFF (42_index_memory.md R121). -/
def indexOverflow (a : Word) (u : Byte) : Bool := decide (a.toNat + u.toNat > 0xFFF)

/-- The flag as a byte: 1 or 0 (R12). -/
def flagByte (b : Bool) : Byte := if b then 1 else 0

/-- `V[15] <- 1 if b else 0` (R12). -/
def State.setFlag (s : State) (b : Bool) : State := s.setReg vf (flagByte b)

/-- A result and then its flag: "writes VF last" (R12, R111). -/
def State.setRegFlag (s : State) (x : Reg) (u : Byte) (b : Bool) : State := (s.setReg x u).setFlag b

/-- One inverted pixel of DXYN: the flag is set where the pixel was on (43_display.md R132, R134), the pixel is inverted,
its new value is emitted (R136). -/
def State.plotPixel (s : State) (p : Fin 64 × Fin 32) : State :=
  State.emit
    { s with
      v := if s.pixel p.1 p.2 then s.v.set vf.toNat 1 else s.v
      disp := flipPixel s.disp p.1 p.2 }
    (.pixel p.1 p.2 (!s.pixel p.1 p.2))

/-- The XOR-draw of R132 on the pixels of a sprite: VF is reset to 0, then each pixel is inverted in order. -/
def State.blit (s : State) (ps : List (Fin 64 × Fin 32)) : State := ps.foldl State.plotPixel (s.setFlag false)

end Sys2Proof.Machine
end

