-- ==== Sys2Proof/Syntax.lean ====
section
/-! DEFINITION. The instructions: one constructor per row of spec/opcode_table.json, in the table's order
(30_encoding.md R66 and the five reserved classes of R70). The fields are those of 00_scope.md R8. -/

namespace Sys2Proof

/-- The 35 instructions of R66 and the reserved words of R70, each with every field its word holds. -/
inductive Instr
  | cls                                        -- 00E0
  | ret                                        -- 00EE
  | sys (nnn : Addr12)                         -- 0NNN
  | jp (nnn : Addr12)                          -- 1NNN
  | call (nnn : Addr12)                        -- 2NNN
  | seImm (x : Reg) (nn : Byte)                -- 3XNN
  | sneImm (x : Reg) (nn : Byte)               -- 4XNN
  | seReg (x y : Reg)                          -- 5XY0
  | reserved5 (x y : Reg) (n : Nibble)         -- 5XYN, N not 0: class (d)
  | ldImm (x : Reg) (nn : Byte)                -- 6XNN
  | addImm (x : Reg) (nn : Byte)               -- 7XNN
  | ldReg (x y : Reg)                          -- 8XY0
  | orReg (x y : Reg)                          -- 8XY1
  | andReg (x y : Reg)                         -- 8XY2
  | xorReg (x y : Reg)                         -- 8XY3
  | addReg (x y : Reg)                         -- 8XY4
  | sub (x y : Reg)                            -- 8XY5
  | shr (x y : Reg)                            -- 8XY6
  | subn (x y : Reg)                           -- 8XY7
  | shl (x y : Reg)                            -- 8XYE
  | reserved8 (x y : Reg) (n : Nibble)         -- 8XYN, N in 8 to D and F: class (a)
  | sneReg (x y : Reg)                         -- 9XY0
  | reserved9 (x y : Reg) (n : Nibble)         -- 9XYN, N not 0: class (d)
  | ldI (nnn : Addr12)                         -- ANNN
  | jpV0 (nnn : Addr12)                        -- BNNN
  | rnd (x : Reg) (nn : Byte)                  -- CXNN
  | drw (x y : Reg) (n : Nibble)               -- DXYN
  | skp (x : Reg)                              -- EX9E
  | sknp (x : Reg)                             -- EXA1
  | reservedE (x : Reg) (nn : Byte)            -- EXNN, NN not 9E, A1: class (b)
  | ldVxDt (x : Reg)                           -- FX07
  | ldVxK (x : Reg)                            -- FX0A
  | ldDtVx (x : Reg)                           -- FX15
  | ldStVx (x : Reg)                           -- FX18
  | addI (x : Reg)                             -- FX1E
  | ldF (x : Reg)                              -- FX29
  | ldB (x : Reg)                              -- FX33
  | ldMemVx (x : Reg)                          -- FX55
  | ldVxMem (x : Reg)                          -- FX65
  | reservedF (x : Reg) (nn : Byte)            -- FXNN, NN no selector of R65: class (c)
  deriving DecidableEq, Repr

end Sys2Proof
end

