-- ==== Sys2Proof/WellFormed.lean ====
section
/-! DEFINITION. Which instruction terms and which configurations are well formed. An instruction term is well formed when
its fields do not make its word another row's word: the first-match order of 30_encoding.md R64, R65, R70. -/

namespace Sys2Proof

/-- The secondary selectors of family 8 (R65). -/
def family8Selectors : List Nibble := [0x0, 0x1, 0x2, 0x3, 0x4, 0x5, 0x6, 0x7, 0xE]

/-- The secondary selectors of family E (R65). -/
def familyESelectors : List Byte := [0x9E, 0xA1]

/-- The secondary selectors of family F (R65). -/
def familyFSelectors : List Byte := [0x07, 0x0A, 0x15, 0x18, 0x1E, 0x29, 0x33, 0x55, 0x65]

/-- 0NNN is every word of family 0 but 00E0 and 00EE (R64, R71); a reserved word is one whose selector is none of its
family's (R70 (a) to (d)); every other term is well formed. -/
def Instr.wf : Instr → Bool
  | .sys nnn => nnn != 0x0E0 && nnn != 0x0EE
  | .reserved5 _ _ n => n != 0
  | .reserved8 _ _ n => !family8Selectors.contains n
  | .reserved9 _ _ n => n != 0
  | .reservedE _ nn => !familyESelectors.contains nn
  | .reservedF _ nn => !familyFSelectors.contains nn
  | _ => true

/-- A configuration the source allows: the first five font bytes are glyph 0 (10_state.md R28, D16). -/
def Config.valid (c : Config) : Bool := c.font.toList.take 5 == Config.glyph0

end Sys2Proof
end

