-- ==== Sys2Proof/Decode.lean ====
section
/-! DEFINITION. The decoder (30_encoding.md R63 to R70), total on 16-bit words and on any list of bytes; the encoder
written from the formats of R61 and the map of R66; and the opcode table in first-match order (R64). -/

namespace Sys2Proof

/-- The primary opcode `op[15:12]` (R8). -/
def fieldOp (w : Word) : BitVec 4 := w.extractLsb' 12 4
/-- `X = op[11:8]` (R8). -/
def fieldX (w : Word) : Reg := w.extractLsb' 8 4
/-- `Y = op[7:4]` (R8). -/
def fieldY (w : Word) : Reg := w.extractLsb' 4 4
/-- `N = op[3:0]` (R8). -/
def fieldN (w : Word) : Nibble := w.extractLsb' 0 4
/-- `NN = op[7:0]` (R8). -/
def fieldNN (w : Word) : Byte := w.extractLsb' 0 8
/-- `NNN = op[11:0]` (R8). -/
def fieldNNN (w : Word) : Addr12 := w.extractLsb' 0 12

/-- Family 0: the two fixed words win over 0NNN (R64). -/
def decodeFamily0 (w : Word) : Instr :=
  if w = 0x00E0#16 then .cls
  else if w = 0x00EE#16 then .ret
  else .sys (fieldNNN w)

/-- Family 8: the selector N in the listing order of R65; the rest is reserved (R70 (a)). -/
def decodeFamily8 (x y : Reg) (n : Nibble) : Instr :=
  if n = 0x0#4 then .ldReg x y
  else if n = 0x1#4 then .orReg x y
  else if n = 0x2#4 then .andReg x y
  else if n = 0x3#4 then .xorReg x y
  else if n = 0x4#4 then .addReg x y
  else if n = 0x5#4 then .sub x y
  else if n = 0x6#4 then .shr x y
  else if n = 0x7#4 then .subn x y
  else if n = 0xE#4 then .shl x y
  else .reserved8 x y n

/-- Family E: the selector NN (R65); the rest is reserved (R70 (b)). -/
def decodeFamilyE (x : Reg) (nn : Byte) : Instr :=
  if nn = 0x9E#8 then .skp x
  else if nn = 0xA1#8 then .sknp x
  else .reservedE x nn

/-- Family F: the selector NN (R65); the rest is reserved (R70 (c)). -/
def decodeFamilyF (x : Reg) (nn : Byte) : Instr :=
  if nn = 0x07#8 then .ldVxDt x
  else if nn = 0x0A#8 then .ldVxK x
  else if nn = 0x15#8 then .ldDtVx x
  else if nn = 0x18#8 then .ldStVx x
  else if nn = 0x1E#8 then .addI x
  else if nn = 0x29#8 then .ldF x
  else if nn = 0x33#8 then .ldB x
  else if nn = 0x55#8 then .ldMemVx x
  else if nn = 0x65#8 then .ldVxMem x
  else .reservedF x nn

/-- The decode procedure of R63: a closed 16-way switch on bits 15 to 12, then the family's secondary selector.
Families 5 and 9 take N as a selector (R70 (d), decision D6; assumption log 13). -/
def decodeWord (w : Word) : Instr :=
  match fieldOp w with
  | 0x0#4 => decodeFamily0 w
  | 0x1#4 => .jp (fieldNNN w)
  | 0x2#4 => .call (fieldNNN w)
  | 0x3#4 => .seImm (fieldX w) (fieldNN w)
  | 0x4#4 => .sneImm (fieldX w) (fieldNN w)
  | 0x5#4 => if fieldN w = 0 then .seReg (fieldX w) (fieldY w) else .reserved5 (fieldX w) (fieldY w) (fieldN w)
  | 0x6#4 => .ldImm (fieldX w) (fieldNN w)
  | 0x7#4 => .addImm (fieldX w) (fieldNN w)
  | 0x8#4 => decodeFamily8 (fieldX w) (fieldY w) (fieldN w)
  | 0x9#4 => if fieldN w = 0 then .sneReg (fieldX w) (fieldY w) else .reserved9 (fieldX w) (fieldY w) (fieldN w)
  | 0xA#4 => .ldI (fieldNNN w)
  | 0xB#4 => .jpV0 (fieldNNN w)
  | 0xC#4 => .rnd (fieldX w) (fieldNN w)
  | 0xD#4 => .drw (fieldX w) (fieldY w) (fieldN w)
  | 0xE#4 => decodeFamilyE (fieldX w) (fieldNN w)
  | _ => decodeFamilyF (fieldX w) (fieldNN w)   -- 0xF, the only primary opcode left

/-- Why a list of bytes is no instruction. Every word is an instruction (R63, R72), so only its length can be wrong. -/
inductive DecodeError
  | truncated   -- fewer than the two bytes of R60
  deriving DecidableEq, Repr

/-- Two bytes as an instruction word, the byte at the lower address high (20_memory.md R41). -/
def wordOfBytes (hi lo : Byte) : Word := hi ++ lo

/-- The decoder on bytes as memory holds them: the instruction and the rest of the bytes (R41, R60, R63). -/
def decode : List Byte → Except DecodeError (Instr × List Byte)
  | hi :: lo :: rest => .ok (decodeWord (wordOfBytes hi lo), rest)
  | _ => .error .truncated

/-- Format `NNN` of R61. -/
def formatNNN (op : BitVec 4) (nnn : Addr12) : Word := op ++ nnn
/-- Formats `XNN` and `XSS` of R61. -/
def formatXNN (op : BitVec 4) (x : Reg) (nn : Byte) : Word := (op ++ x) ++ nn
/-- Format `XYN` of R61. -/
def formatXYN (op : BitVec 4) (x y : Reg) (n : Nibble) : Word := (op ++ x) ++ (y ++ n)

/-- The word of an instruction: its pattern of R66 (R70 for the reserved words) in its format of R61. -/
def encode : Instr → Word
  | .cls => 0x00E0#16
  | .ret => 0x00EE#16
  | .sys nnn => formatNNN 0x0 nnn
  | .jp nnn => formatNNN 0x1 nnn
  | .call nnn => formatNNN 0x2 nnn
  | .seImm x nn => formatXNN 0x3 x nn
  | .sneImm x nn => formatXNN 0x4 x nn
  | .seReg x y => formatXYN 0x5 x y 0x0
  | .reserved5 x y n => formatXYN 0x5 x y n
  | .ldImm x nn => formatXNN 0x6 x nn
  | .addImm x nn => formatXNN 0x7 x nn
  | .ldReg x y => formatXYN 0x8 x y 0x0
  | .orReg x y => formatXYN 0x8 x y 0x1
  | .andReg x y => formatXYN 0x8 x y 0x2
  | .xorReg x y => formatXYN 0x8 x y 0x3
  | .addReg x y => formatXYN 0x8 x y 0x4
  | .sub x y => formatXYN 0x8 x y 0x5
  | .shr x y => formatXYN 0x8 x y 0x6
  | .subn x y => formatXYN 0x8 x y 0x7
  | .shl x y => formatXYN 0x8 x y 0xE
  | .reserved8 x y n => formatXYN 0x8 x y n
  | .sneReg x y => formatXYN 0x9 x y 0x0
  | .reserved9 x y n => formatXYN 0x9 x y n
  | .ldI nnn => formatNNN 0xA nnn
  | .jpV0 nnn => formatNNN 0xB nnn
  | .rnd x nn => formatXNN 0xC x nn
  | .drw x y n => formatXYN 0xD x y n
  | .skp x => formatXNN 0xE x 0x9E
  | .sknp x => formatXNN 0xE x 0xA1
  | .reservedE x nn => formatXNN 0xE x nn
  | .ldVxDt x => formatXNN 0xF x 0x07
  | .ldVxK x => formatXNN 0xF x 0x0A
  | .ldDtVx x => formatXNN 0xF x 0x15
  | .ldStVx x => formatXNN 0xF x 0x18
  | .addI x => formatXNN 0xF x 0x1E
  | .ldF x => formatXNN 0xF x 0x29
  | .ldB x => formatXNN 0xF x 0x33
  | .ldMemVx x => formatXNN 0xF x 0x55
  | .ldVxMem x => formatXNN 0xF x 0x65
  | .reservedF x nn => formatXNN 0xF x nn

/-- The bytes of a word in memory: bits 15 to 8 at the lower address (R41, R61). -/
def bytesOfWord (w : Word) : List Byte := [w.extractLsb' 8 8, w.extractLsb' 0 8]

/-- A row of spec/opcode_table.json: a word `w` is the row's when `w &&& maskBits = matchBits` (R66). -/
structure OpcodeRow where
  pattern   : String
  maskBits  : Word
  matchBits : Word
  deriving DecidableEq, Repr

/-- Rows 0NNN to 7XNN of spec/opcode_table.json (R66, R70), in first-match order (R64). -/
def opcodeRows0to7 : List OpcodeRow :=
  [⟨"00E0", 0xFFFF, 0x00E0⟩, ⟨"00EE", 0xFFFF, 0x00EE⟩, ⟨"0NNN", 0xF000, 0x0000⟩, ⟨"1NNN", 0xF000, 0x1000⟩,
   ⟨"2NNN", 0xF000, 0x2000⟩, ⟨"3XNN", 0xF000, 0x3000⟩, ⟨"4XNN", 0xF000, 0x4000⟩, ⟨"5XY0", 0xF00F, 0x5000⟩,
   ⟨"5XYN", 0xF000, 0x5000⟩, ⟨"6XNN", 0xF000, 0x6000⟩, ⟨"7XNN", 0xF000, 0x7000⟩]

/-- Rows 8XY0 to 9XYN of spec/opcode_table.json (R66, R70), in first-match order (R64). -/
def opcodeRows8to9 : List OpcodeRow :=
  [⟨"8XY0", 0xF00F, 0x8000⟩, ⟨"8XY1", 0xF00F, 0x8001⟩, ⟨"8XY2", 0xF00F, 0x8002⟩, ⟨"8XY3", 0xF00F, 0x8003⟩,
   ⟨"8XY4", 0xF00F, 0x8004⟩, ⟨"8XY5", 0xF00F, 0x8005⟩, ⟨"8XY6", 0xF00F, 0x8006⟩, ⟨"8XY7", 0xF00F, 0x8007⟩,
   ⟨"8XYE", 0xF00F, 0x800E⟩, ⟨"8XYN", 0xF000, 0x8000⟩, ⟨"9XY0", 0xF00F, 0x9000⟩, ⟨"9XYN", 0xF000, 0x9000⟩]

/-- Rows ANNN to FXNN of spec/opcode_table.json (R66, R70), in first-match order (R64). -/
def opcodeRowsAtoF : List OpcodeRow :=
  [⟨"ANNN", 0xF000, 0xA000⟩, ⟨"BNNN", 0xF000, 0xB000⟩, ⟨"CXNN", 0xF000, 0xC000⟩, ⟨"DXYN", 0xF000, 0xD000⟩,
   ⟨"EX9E", 0xF0FF, 0xE09E⟩, ⟨"EXA1", 0xF0FF, 0xE0A1⟩, ⟨"EXNN", 0xF000, 0xE000⟩, ⟨"FX07", 0xF0FF, 0xF007⟩,
   ⟨"FX0A", 0xF0FF, 0xF00A⟩, ⟨"FX15", 0xF0FF, 0xF015⟩, ⟨"FX18", 0xF0FF, 0xF018⟩, ⟨"FX1E", 0xF0FF, 0xF01E⟩,
   ⟨"FX29", 0xF0FF, 0xF029⟩, ⟨"FX33", 0xF0FF, 0xF033⟩, ⟨"FX55", 0xF0FF, 0xF055⟩, ⟨"FX65", 0xF0FF, 0xF065⟩,
   ⟨"FXNN", 0xF000, 0xF000⟩]

/-- The 40 rows of spec/opcode_table.json in first-match order (R64). The decoder does not use it: that the two agree
is a statement (`Obligations.DecoderFollowsOpcodeTable`). -/
def opcodeTable : List OpcodeRow := opcodeRows0to7 ++ opcodeRows8to9 ++ opcodeRowsAtoF

/-- The first row a word matches (R64: "a decoder takes the first row whose `(word & mask) == match`"). -/
def firstRow (w : Word) : Option OpcodeRow := opcodeTable.find? (fun r => w &&& r.maskBits == r.matchBits)

/-- The pattern of R66 (R70 for the reserved words) that names an instruction (R73). -/
def Instr.pattern : Instr → String
  | .cls => "00E0" | .ret => "00EE" | .sys _ => "0NNN" | .jp _ => "1NNN" | .call _ => "2NNN"
  | .seImm _ _ => "3XNN" | .sneImm _ _ => "4XNN" | .seReg _ _ => "5XY0" | .reserved5 _ _ _ => "5XYN"
  | .ldImm _ _ => "6XNN" | .addImm _ _ => "7XNN"
  | .ldReg _ _ => "8XY0" | .orReg _ _ => "8XY1" | .andReg _ _ => "8XY2" | .xorReg _ _ => "8XY3"
  | .addReg _ _ => "8XY4" | .sub _ _ => "8XY5" | .shr _ _ => "8XY6" | .subn _ _ => "8XY7" | .shl _ _ => "8XYE"
  | .reserved8 _ _ _ => "8XYN" | .sneReg _ _ => "9XY0" | .reserved9 _ _ _ => "9XYN"
  | .ldI _ => "ANNN" | .jpV0 _ => "BNNN" | .rnd _ _ => "CXNN" | .drw _ _ _ => "DXYN"
  | .skp _ => "EX9E" | .sknp _ => "EXA1" | .reservedE _ _ => "EXNN"
  | .ldVxDt _ => "FX07" | .ldVxK _ => "FX0A" | .ldDtVx _ => "FX15" | .ldStVx _ => "FX18" | .addI _ => "FX1E"
  | .ldF _ => "FX29" | .ldB _ => "FX33" | .ldMemVx _ => "FX55" | .ldVxMem _ => "FX65" | .reservedF _ _ => "FXNN"

/-- An instruction whose bits are `w`, numbered as spec/opcode_table.json numbers them, of which the table gives `nbits`:
every bit above `nbits` is 0, and an instruction has 16 bits (R60). -/
def tableWord (nbits w : Nat) : Word := BitVec.ofNat 16 (w % 2 ^ nbits)

/-- What the decoder reads from such an instruction, laid out in memory order (R41). -/
def decodeTableWord (nbits w : Nat) : Option Instr :=
  match decode (bytesOfWord (tableWord nbits w)) with
  | .ok (i, _) => some i
  | .error _ => none

end Sys2Proof
end

