-- ==== Sys2Proof/Machine/ControlFlow.lean ====
section
/-! DEFINITION. The control-transfer instructions (40_control_flow.md). In every meaning `PC` already holds the advanced
value `a + 2` (R80). -/

namespace Sys2Proof.Machine

/-- A skip: 2 is added to the advanced `PC` if the condition holds (R91). -/
def State.skipIf (s : State) (c : Bool) : State := s.setPc (if c then s.pc + 2 else s.pc)

/-- 00EE, return (R82, R154). -/
def execRet (s : State) : Result :=
  match s.pop with
  | none => raise .stackUnderflow (encode .ret) 0 s
  | some (a, t) => .next (t.setPc a)

/-- 0NNN, native call: an unimplemented no-op (R83, 30_encoding.md R71). -/
def execSys (_nnn : Addr12) (s : State) : Result := .next s

/-- 1NNN, jump (R84). -/
def execJp (nnn : Addr12) (s : State) : Result := .next (s.setPc (zext12 nnn))

/-- 2NNN, call: pushes the advanced `PC` (R85, R153). -/
def execCall (nnn : Addr12) (s : State) : Result :=
  match s.push s.pc with
  | none => raise .stackOverflow (encode (.call nnn)) (zext12 nnn) s
  | some t => .next (t.setPc (zext12 nnn))

/-- 3XNN, skip if equal to immediate (R86). -/
def execSeImm (x : Reg) (nn : Byte) (s : State) : Result := .next (s.skipIf (s.reg x == nn))

/-- 4XNN, skip if not equal to immediate (R87). -/
def execSneImm (x : Reg) (nn : Byte) (s : State) : Result := .next (s.skipIf (s.reg x != nn))

/-- 5XY0, skip if registers equal (R88). -/
def execSeReg (x y : Reg) (s : State) : Result := .next (s.skipIf (s.reg x == s.reg y))

/-- 9XY0, skip if registers not equal (R89). -/
def execSneReg (x y : Reg) (s : State) : Result := .next (s.skipIf (s.reg x != s.reg y))

/-- BNNN, jump with offset: the sum is not reduced to 12 bits (R90, D17). -/
def execJpV0 (nnn : Addr12) (s : State) : Result := .next (s.setPc (zext12 nnn + zext8 (s.jumpOffset nnn)))

end Sys2Proof.Machine
end

