-- ==== Sys2Proof/Machine/Display.lean ====
section
/-! DEFINITION. The display instructions (43_display.md). -/

namespace Sys2Proof.Machine

/-- 00E0, clear display (R131). -/
def execCls (s : State) : Result := .next s.clearDisplay

/-- DXYN, draw sprite (R132): the origin is read, mod 64 and mod 32, before VF is reset (C3, D9); all N sprite bytes are
checked first, clipped rows included (R126, D10). -/
def execDrw (x y : Reg) (n : Nibble) (s : State) : Result :=
  match firstBad s.cfg s.i n.toNat with
  | some e => raise .memoryBounds (encode (.drw x y n)) e s
  | none => .next (s.blit (spritePixels ((s.reg x).toNat % 64) ((s.reg y).toNat % 32) (s.spriteRows n)))

end Sys2Proof.Machine
end

