-- ==== Sys2Proof/Machine/IndexMemory.lean ====
section
/-! DEFINITION. The index register, decimal store and block transfer instructions (42_index_memory.md). All addresses of
an instruction are checked before its first write (R126). -/

namespace Sys2Proof.Machine

/-- ANNN, load index (R120). -/
def execLdI (nnn : Addr12) (s : State) : Result := .next (s.setI (zext12 nnn))

/-- FX1E, add to index: the sum mod 65536, VF = sum above 0xFFF (R121, D17). -/
def execAddI (x : Reg) (s : State) : Result :=
  .next ((s.setI (s.i + zext8 (s.reg x))).setFlag (indexOverflow s.i (s.reg x)))

/-- FX29, point index at font glyph (R122). -/
def execLdF (x : Reg) (s : State) : Result := .next (s.setI (glyphAddr (s.reg x)))

/-- FX33, store decimal digits (R123). -/
def execLdB (x : Reg) (s : State) : Result :=
  match firstBad s.cfg s.i 3 with
  | some e => raise .memoryBounds (encode (.ldB x)) e s
  | none => .next (s.writeBytes s.i.toNat (decimalDigits (s.reg x)))

/-- `for i from 0 to n - 1, ascending: MemWrite(base + i, 1, V[i])` (R124). -/
def State.storeRegs (s : State) (base : Nat) : Nat → State
  | 0 => s
  | n + 1 =>
    let t := State.storeRegs s base n
    t.writeByte (base + n) (t.reg (BitVec.ofNat 4 n))

/-- `for i from 0 to n - 1, ascending: V[i] <- MemRead(base + i, 1)` (R125). -/
def State.loadRegs (s : State) (base : Nat) : Nat → State
  | 0 => s
  | n + 1 =>
    let t := State.loadRegs s base n
    t.setReg (BitVec.ofNat 4 n) (t.readByte (base + n))

/-- `if cfg.Q_INCI = 1: I <- (I + n) mod 65536` (R124, R125). -/
def State.bumpI (s : State) (n : Nat) : State := if s.cfg.qInci then s.setI (s.i + BitVec.ofNat 16 n) else s

/-- FX55, store registers `V[0]` to `V[X]` (R124). -/
def execLdMemVx (x : Reg) (s : State) : Result :=
  match firstBad s.cfg s.i (x.toNat + 1) with
  | some e => raise .memoryBounds (encode (.ldMemVx x)) e s
  | none => .next ((s.storeRegs s.i.toNat (x.toNat + 1)).bumpI (x.toNat + 1))

/-- FX65, load registers `V[0]` to `V[X]` (R125). -/
def execLdVxMem (x : Reg) (s : State) : Result :=
  match firstBad s.cfg s.i (x.toNat + 1) with
  | some e => raise .memoryBounds (encode (.ldVxMem x)) e s
  | none => .next ((s.loadRegs s.i.toNat (x.toNat + 1)).bumpI (x.toNat + 1))

end Sys2Proof.Machine
end

