-- ==== Sys2Proof/Machine/KeypadTimers.lean ====
section
/-! DEFINITION. The keypad and timer instructions (44_keypad_timers.md). -/

namespace Sys2Proof.Machine

/-- EX9E, skip if key pressed (R140, R156). -/
def execSkp (x : Reg) (s : State) : Result :=
  match keyIndex s.cfg (s.reg x) with
  | none => raise .keyIndexRange (encode (.skp x)) (zext8 (s.reg x)) s
  | some k => .next (s.skipIf (s.keyDown k))

/-- EXA1, skip if key not pressed (R141, R156). -/
def execSknp (x : Reg) (s : State) : Result :=
  match keyIndex s.cfg (s.reg x) with
  | none => raise .keyIndexRange (encode (.sknp x)) (zext8 (s.reg x)) s
  | some k => .next (s.skipIf (!s.keyDown k))

/-- FX0A, wait for key: `PC` back on itself; if a key is pressed, the lowest one to `V[X]` and `PC` on again (R142). -/
def execLdVxK (x : Reg) (s : State) : Result :=
  match lowestKey s.kp with
  | none => .next s.rewind
  | some k => .next (s.rewind.setReg x (BitVec.ofNat 8 k)).advance

/-- FX07, read delay timer (R143). -/
def execLdVxDt (x : Reg) (s : State) : Result := .next (s.setReg x s.dt)

/-- FX15, set delay timer (R144). -/
def execLdDtVx (x : Reg) (s : State) : Result := .next { s with dt := s.reg x }

/-- FX18, set sound timer (R145). -/
def execLdStVx (x : Reg) (s : State) : Result := .next { s with st := s.reg x }

end Sys2Proof.Machine
end

