-- ==== Sys2Proof/Machine/Reserved.lean ====
section
/-! DEFINITION. The reserved words: permissive no-ops, a full cycle in which nothing but `PC` changes (30_encoding.md
R70). `PC` has been advanced by the cycle (40_control_flow.md R80). -/

namespace Sys2Proof.Machine

/-- 5XYN with N not 0 (R70 (d), D6; assumption log 13). -/
def execReserved5 (_x _y : Reg) (_n : Nibble) (s : State) : Result := .next s

/-- 8XYN with N in 8 to D and F (R70 (a)). -/
def execReserved8 (_x _y : Reg) (_n : Nibble) (s : State) : Result := .next s

/-- 9XYN with N not 0 (R70 (d), D6; assumption log 13). -/
def execReserved9 (_x _y : Reg) (_n : Nibble) (s : State) : Result := .next s

/-- EXNN with NN not 9E, A1 (R70 (b)). -/
def execReservedE (_x : Reg) (_nn : Byte) (s : State) : Result := .next s

/-- FXNN with NN no selector of R65 (R70 (c)). -/
def execReservedF (_x : Reg) (_nn : Byte) (s : State) : Result := .next s

end Sys2Proof.Machine
end

