-- ==== Sys2Proof/Machine/Cycle.lean ====
section
/-! DEFINITION. Fetching an instruction, one cycle, and placing an instruction word where the fetch reads it. -/

namespace Sys2Proof.Machine

/-- The fetch of 20_memory.md R42: the word at `PC`, high byte first; or the lowest address of the two above 0xFFF
(R44, 60_exceptions.md R155). -/
def State.fetch (s : State) : Except Word Word :=
  match firstBad s.cfg s.pc 2 with
  | some e => .error e
  | none => .ok (wordOfBytes (s.readByte s.pc.toNat) (s.readByte (s.pc.toNat + 1)))

/-- One cycle, the spec's `step()` (40_control_flow.md R80): fetch, advance `PC`, run one instruction. With FATAL = 1
nothing changes (R81). -/
def cycle (s : State) : Result :=
  if s.fatal then .next s
  else
    match s.fetch with
    | .error e => raiseFetch e s
    | .ok op => exec (decodeWord op) s.advance

/-- One iteration of the run loop (00_scope.md R9, 70_reset_and_hazards.md R173 step 4): one cycle, then the gap with the
environment's `setKeypad` and `TimerTick`. With FATAL = 1 nothing changes (R159). -/
def iteration (s : State) : Result :=
  if s.fatal then .next s
  else
    match cycle s with
    | .next t => .next (t.gap s.input)
    | .fault r => .fault r
    | .refused r => .refused r

/-- Where the next instruction is placed: `PC`, or the entry point 0x200 where no fetch at `PC` can succeed. -/
def State.fetchPlace (s : State) : Word := if (firstBad s.cfg s.pc 2).isNone then s.pc else 0x0200

/-- The state with an instruction's word, numbered as spec/opcode_table.json numbers it, at the place the next step
fetches from, and FATAL cleared so that the next step is a cycle (assumption log 29). -/
def placeWord (s : State) (nbits w : Nat) : State :=
  State.writeBytes { s with pc := s.fetchPlace, fatal := false } s.fetchPlace.toNat (bytesOfWord (tableWord nbits w))

end Sys2Proof.Machine
end

