-- ==== Sys2Proof/Machine/Step.lean ====
section
/-! DEFINITION. One step of the machine, and the host's placing of an instruction. Both only call Machine/Cycle.lean. -/

namespace Sys2Proof.Machine

/-- One step: one iteration of the run loop (assumption log 6). -/
def step (s : State) : Host.Outcome State Fault Refusal := iteration s

/-- `s` with the instruction stored where `step` fetches its next instruction (assumption log 29). -/
def State.withFetchWord (s : State) (nbits w : Nat) : State := placeWord s nbits w

end Sys2Proof.Machine
end

