-- ==== Sys2Proof/Safety.lean ====
section
/-! DEFINITION. The terms in which claims about the machine are stated: what is in bounds, what a frame keeps, what an
instruction may write, what a sprite inverts, the invariants of the state. A safe run is one in which FATAL stays 0
(60_exceptions.md R151: "every claim about a program takes "`FATAL` stays 0" as something to prove or assume"). -/

namespace Sys2Proof.Machine

/-- The machine is running (10_state.md R24). -/
def State.running (s : State) : Prop := s.fatal = false

/-- None of the `count` addresses from `base` is above 0xFFF, or the addresses wrap (20_memory.md R44, R126). -/
def InBounds (cfg : Config) (base : Word) (count : Nat) : Prop :=
  cfg.oobPolicy = .wrap ∨ count = 0 ∨ base.toNat + count ≤ 4096

/-- The lowest address above 0xFFF among those from `base`, where one is (R126). -/
def lowestBad (base : Word) : Word := if base.toNat > 0xFFF then base else 0x1000

/-- `s` in the FATAL state that an execute fault leaves: FATAL and FREC written, all else as before, `PC` still the
advanced value (60_exceptions.md R151). -/
def faulted (s : State) (cause : Cause) (op info : Word) : State :=
  { s with fatal := true, frec := { cause := cause, addr := s.pc - 2, op := op, info := info } }

/-- The parts of the state a frame may except, besides the general registers. -/
inductive Part
  | pc | index | stack | display | delay | sound | memory
  deriving DecidableEq, Repr

/-- The frame of an instruction: from `s` to `t` every general register outside `regs` and every part outside `parts` is
unchanged; KP, FATAL, FREC, the configuration and the model's own fields always are. -/
structure Frame (s t : State) (regs : List Reg) (parts : List Part) : Prop where
  reg     : ∀ r, r ∉ regs → t.reg r = s.reg r
  pc      : Part.pc ∉ parts → t.pc = s.pc
  index   : Part.index ∉ parts → t.i = s.i
  stack   : Part.stack ∉ parts → t.stack = s.stack ∧ t.sp = s.sp
  display : Part.display ∉ parts → t.disp = s.disp ∧ t.out = s.out
  delay   : Part.delay ∉ parts → t.dt = s.dt
  sound   : Part.sound ∉ parts → t.st = s.st
  memory  : Part.memory ∉ parts → ∀ a, t.readByte a = s.readByte a
  keypad  : t.kp = s.kp
  fault   : t.fatal = s.fatal ∧ t.frec = s.frec
  config  : t.cfg = s.cfg
  model   : t.inputs = s.inputs ∧ t.iter = s.iter ∧ t.started = s.started

/-- Every byte outside the `count` addresses from `base` reads as before. -/
def KeepsOtherBytes (s t : State) (base count : Nat) : Prop :=
  ∀ a, (∀ k, k < count → effAddr s.cfg a ≠ effAddr s.cfg (base + k)) → t.readByte a = s.readByte a

/-- The word of an instruction as a number: its pattern of 30_encoding.md R66 with the fields in their places (R61). -/
def WordIs (i : Instr) (n : Nat) : Prop := (encode i).toNat = n

/-- The seven flag writers (10_state.md R12). -/
def writesFlag : Instr → Bool
  | .addReg _ _ | .sub _ _ | .shr _ _ | .subn _ _ | .shl _ _ | .addI _ | .drw _ _ _ => true
  | _ => false

/-- `V[0]` to `V[x]` (10_state.md R11). -/
def regsUpTo (x : Reg) : List Reg := (List.range (x.toNat + 1)).map (BitVec.ofNat 4)

/-- The ordinary destination registers of an instruction (the rules of 41_alu.md, 42_index_memory.md R125,
44_keypad_timers.md R142, R143). -/
def destRegs : Instr → List Reg
  | .ldImm x _ | .addImm x _ | .ldReg x _ | .orReg x _ | .andReg x _ | .xorReg x _ | .addReg x _ | .sub x _
  | .shr x _ | .subn x _ | .shl x _ | .rnd x _ | .ldVxDt x | .ldVxK x => [x]
  | .ldVxMem x => regsUpTo x
  | _ => []

/-- The cause an instruction can raise, if any (60_exceptions.md R152, R158). -/
def possibleCause : Instr → Option Cause
  | .call _ => some .stackOverflow
  | .ret => some .stackUnderflow
  | .drw _ _ _ | .ldB _ | .ldMemVx _ | .ldVxMem _ => some .memoryBounds
  | .skp _ | .sknp _ => some .keyIndexRange
  | _ => none

/-- The words of 0NNN: family 0 less the two fixed words (30_encoding.md R64, R71). -/
def IsSysWord (w : Word) : Prop := w.toNat / 4096 = 0x0 ∧ w.toNat ≠ 0x00E0 ∧ w.toNat ≠ 0x00EE

/-- The reserved words in the bits of 30_encoding.md R70 (a) to (d). -/
def IsReservedWord (w : Word) : Prop :=
  (w.toNat / 4096 = 0x8 ∧ w.toNat % 16 ∈ [0x8, 0x9, 0xA, 0xB, 0xC, 0xD, 0xF]) ∨
  (w.toNat / 4096 = 0xE ∧ w.toNat % 256 ∉ [0x9E, 0xA1]) ∨
  (w.toNat / 4096 = 0xF ∧ w.toNat % 256 ∉ [0x07, 0x0A, 0x15, 0x18, 0x1E, 0x29, 0x33, 0x55, 0x65]) ∨
  ((w.toNat / 4096 = 0x5 ∨ w.toNat / 4096 = 0x9) ∧ w.toNat % 16 ≠ 0)

/-- The mask of 43_display.md R133: whether DXYN with these operands inverts the pixel `(px, py)`. -/
def Toggles (s : State) (x y : Reg) (n : Nibble) (px : Fin 64) (py : Fin 32) : Prop :=
  ∃ r c : Nat, r < n.toNat ∧ c < 8 ∧ px.val = (s.reg x).toNat % 64 + c ∧ py.val = (s.reg y).toNat % 32 + r ∧
    (s.readByte (s.i.toNat + r)).getLsbD (7 - c) = true

/-- The sink's picture after one event (43_display.md R136). -/
def applyEvent (d : Vector (BitVec 64) 32) : SinkEvent → Vector (BitVec 64) 32
  | .clear => Vector.replicate 32 0
  | .pixel x y on => if d[y.val].getLsbD x.val = on then d else flipPixel d x y

/-- The sink's picture after all events in order, from an initially blank screen (R136). -/
def sinkPicture (evs : List SinkEvent) : Vector (BitVec 64) 32 := evs.foldl applyEvent (Vector.replicate 32 0)

/-- Invariant: memory is in its canonical form. -/
def State.MemCanonical (s : State) : Prop := Memory.wf s.cfg.font s.mem

/-- Invariant: the sink holds a copy of DISP (R136). -/
def State.SinkAgrees (s : State) : Prop := sinkPicture s.out = s.disp

/-- Invariant: FREC is valid when FATAL = 1 (10_state.md R24): its cause is one of the four of R152. -/
def State.FaultRecorded (s : State) : Prop := s.fatal = true → s.frec.cause ≠ .noCause

/-- The fairness assumption of 60_exceptions.md R161 (70_reset_and_hazards.md R186), the only one about time: in the
schedule `e`, the environment's input of each iteration, `TimerTick` occurs again and again. The model assumes it nowhere; a
claim that needs it takes it as a premise (assumption log 32). -/
def FairTicks (e : Nat → LoopInput) : Prop := ∀ n, ∃ m, n ≤ m ∧ (e m).tick = true

/-- A run under the schedule `e` (R161 (c), R173 step 4): `σ k` is the state after `k` iterations, each of which is one step
in which the environment supplies `e k`. With `e k` the state's own input this is a run of `step` alone. -/
def RunsUnder (e : Nat → LoopInput) (σ : Nat → State) : Prop :=
  ∀ k, ∃ l : List LoopInput,
    State.input { σ k with inputs := l } = e k ∧ step { σ k with inputs := l } = .next (σ (k + 1))

/-- The values of 10_state.md R27 after reset with the parameters `cfg`; FREC is unspecified there. -/
def IsResetState (cfg : Config) (t : State) : Prop :=
  (∀ a, a < 4096 → t.readByte a = if h : 0x050 ≤ a ∧ a ≤ 0x09F then cfg.font[a - 0x050]'(by omega) else 0x00) ∧
  (∀ r, t.reg r = 0x00) ∧ t.i = 0x0000 ∧ t.pc = 0x0200 ∧
  (∀ k : Fin 16, t.stack[k.val] = 0x0000) ∧ t.sp = 0 ∧
  (∀ x y, t.pixel x y = false) ∧ t.kp = 0x0000 ∧ t.dt = 0x00 ∧ t.st = 0x00 ∧
  t.fatal = false ∧ t.cfg = cfg

end Sys2Proof.Machine
end

