-- ==== Sys2Proof/Certificates/Slice0/Obligations.lean ====
section
/-! DEFINITION. The statements for the provers. `exec i s` runs `i` in the state of the cycle after the fetch and the
advance: `s.pc` is the advanced value `a + 2` (40_control_flow.md R80), and `s.pc` left unchanged means `PC = a + 2`. -/

open Sys2Proof Sys2Proof.Machine

/-! ### Reset, load, the cycle -/

/-- R27, R170: the value of every piece of state after construction and after `reset()` in any state, FATAL included; the
machine's own reset state has the default flags. R171: reset changes no parameter, emits no event and touches nothing
outside the block. That FATAL exists and is cleared is the spec's decision D4 (assumption log 7), that no event is emitted
is D19; FREC is unspecified after reset and nothing is said of it. -/
def Obligations.ResetLeavesTheResetState : Prop :=
  (∀ cfg, IsResetState cfg (State.init cfg)) ∧
  (∀ s : State, IsResetState s.cfg s.hostReset ∧
    s.hostReset.out = s.out ∧ s.hostReset.inputs = s.inputs ∧ s.hostReset.iter = s.iter) ∧
  State.reset.cfg.qShift = false ∧ State.reset.cfg.qJump0 = false ∧ State.reset.cfg.qInci = false

/-- R28, D16 (assumption log 4): for every font the source allows, the five bytes at 0x050 after reset are glyph 0. -/
def Obligations.GlyphZeroIsInstalled : Prop :=
  ∀ cfg : Config, cfg.valid = true → ∀ j : Fin 5,
    (State.init cfg).readByte (0x050 + j.val) = Config.glyph0[j.val]'j.isLt

/-- R52, R174, R163: `load` after reset of at most 3584 bytes copies byte `k` to `0x200 + k` and changes nothing else; a
longer load, and one after a cycle has run, is refused (the spec's decision D22; holding "a cycle has run" in a field is
the model's choice, assumption log 22). -/
def Obligations.LoadCopiesTheRom : Prop :=
  ∀ (s : State) (bytes : List Byte),
    (bytes.length ≤ 3584 → s.started = false →
      ∃ t, s.hostLoad bytes = .next t ∧
        (∀ k (hk : k < bytes.length), t.readByte (0x200 + k) = bytes[k]) ∧
        (∀ a, a < 4096 → (a < 0x200 ∨ 0x200 + bytes.length ≤ a) → t.readByte a = s.readByte a) ∧
        t = { s with mem := t.mem }) ∧
    (3584 < bytes.length ∨ s.started = true → s.hostLoad bytes = .refused .loadContract)

/-- R41, R42: the fetch reads the byte at `PC` as the high byte and the byte at `PC + 1` as the low byte; where one of
the two addresses is above 0xFFF under the decided policy (D2, assumption log 2) it fails with the lowest such address. -/
def Obligations.FetchIsBigEndian : Prop :=
  ∀ s : State,
    (InBounds s.cfg s.pc 2 → ∃ w, s.fetch = .ok w ∧
      w.toNat = (s.readByte s.pc.toNat).toNat * 256 + (s.readByte (s.pc.toNat + 1)).toNat) ∧
    (s.cfg.oobPolicy = .fault → s.pc.toNat > 0xFFE →
      s.fetch = .error (if s.pc.toNat > 0xFFF then s.pc else 0x1000))

/-- A step runs the decoded instruction (R80; R9, R173 for the run loop's iteration, which the model takes as its step,
assumption log 6): where the machine is running and the two bytes at `PC` decode to `i`, the cycle is `exec i` at the state
with `PC` advanced by 2, and the step is that followed by the environment's gap. -/
def Obligations.StepRunsTheDecodedInstruction : Prop :=
  ∀ (s t : State) (i : Instr), s.running → InBounds s.cfg s.pc 2 →
    decode [s.readByte s.pc.toNat, s.readByte (s.pc.toNat + 1)] = .ok (i, []) →
    cycle s = exec i { s with pc := s.pc + 2 } ∧
    (exec i { s with pc := s.pc + 2 } = .next t → step s = .next (t.gap s.input))

/-- The gap after a cycle (R146, R160, R161, R173; the model's choice of the order and of holding the inputs, assumption
logs 5 and 6): while running, KP is what `setKeypad` wrote or as before, and the timers count down by at most one; in FATAL
none of them changes (R159); nothing else of the block changes. -/
def Obligations.GapIsKeypadThenTick : Prop :=
  ∀ (s t : State) (e : LoopInput), t = s.gap e →
    (s.fatal = true → t.kp = s.kp ∧ t.dt = s.dt ∧ t.st = s.st) ∧
    (s.running →
      t.kp = e.keys.getD s.kp ∧
      t.dt.toNat = (if e.tick then s.dt.toNat - 1 else s.dt.toNat) ∧
      t.st.toNat = (if e.tick then s.st.toNat - 1 else s.st.toNat)) ∧
    (t.v = s.v ∧ t.i = s.i ∧ t.pc = s.pc ∧ t.stack = s.stack ∧ t.sp = s.sp ∧ t.disp = s.disp ∧ t.mem = s.mem ∧
      t.out = s.out ∧ t.fatal = s.fatal ∧ t.frec = s.frec ∧ t.cfg = s.cfg)

/-- R155 for the fetch, with R151 (3), (4) (the spec's decisions D2, D4, D26; assumption logs 2, 7): under the decided
policy a fetch at `PC > 0xFFE` raises MemoryBounds with the
word 0 and leaves `PC` at `a`; no instruction runs and no event of the gap has effect. -/
def Obligations.FetchAboveMemoryIsFatal : Prop :=
  ∀ s : State, s.running → s.cfg.oobPolicy = .fault → s.pc.toNat > 0xFFE →
    ∃ t, step s = .next t ∧ t.fatal = true ∧
      t.frec = { cause := .memoryBounds, addr := s.pc, op := 0, info := if s.pc.toNat > 0xFFF then s.pc else 0x1000 } ∧
      t = { s with fatal := true, frec := t.frec, inputs := t.inputs, iter := t.iter, started := t.started }

/-- R81, R72: with FATAL = 1 the cycle (and the step) changes nothing (the spec's decision D24, assumption log 7); with FATAL = 0 a cycle can always run: it ends in a next
state, whatever the memory holds. -/
def Obligations.ACycleAlwaysCompletes : Prop :=
  ∀ s : State,
    (s.fatal = true → cycle s = .next s ∧ step s = .next s) ∧
    (s.running → (∃ t, cycle s = .next t) ∧ ∃ t, step s = .next t)

/-- R159 (decisions D4, D24; assumption log 7): in FATAL a `TimerTick` and a `setKeypad` have no effect and no load is a way out, the snapshot still answers
DISP, and `reset()` clears FATAL. -/
def Obligations.OnlyResetLeavesFatal : Prop :=
  ∀ s : State, s.fatal = true →
    cycle s = .next s ∧ step s = .next s ∧ s.timerTick = s ∧ (∀ k, s.setKeypad k = s) ∧
    (∀ bytes t, s.hostLoad bytes = .next t → t.fatal = true) ∧
    (∀ x y, s.getDisplay x y = s.pixel x y) ∧ s.hostReset.fatal = false

/-! ### Encoding -/

/-- Decode and encode agree, in both directions (R61, R63 to R66, R70; families 5 and 9 by decision D6, assumption log 13;
the operations behind family 8's selectors by decision D27, assumption log 17):
the word of every well-formed instruction decodes to it, with every operand at every value its encoding admits; and every
one of the 65536 words decodes to a well-formed instruction whose encoding is that word, so no bit of a word is lost. -/
def Obligations.DecodeAndEncodeAreInverse : Prop :=
  (∀ i : Instr, i.wf = true → decodeWord (encode i) = i ∧ decode (bytesOfWord (encode i)) = .ok (i, [])) ∧
  ∀ (w : Word) (i : Instr), decodeWord w = i → i.wf = true ∧ encode i = w

/-- R64, R66, R70 (class (d) by decision D6, assumption log 13): an instruction that a word decodes to is the one whose
pattern is that of the first row of the opcode table whose mask and match the word meets. -/
def Obligations.DecoderFollowsOpcodeTable : Prop :=
  ∀ (w : Word) (i : Instr), decodeWord w = i → (firstRow w).map OpcodeRow.pattern = some i.pattern

/-- All the decoding vectors of 95_test_vectors.md, T-E1 to T-E21, in their order; the last is given as bytes (D6, D27;
assumption logs 13, 17). -/
def Obligations.VectorWordsDecode : Prop :=
  decodeWord 0x0000 = .sys 0x000 ∧ decodeWord 0x00E0 = .cls ∧ decodeWord 0x00EE = .ret ∧ decodeWord 0x00E1 = .sys 0x0E1 ∧
  decodeWord 0x00FF = .sys 0x0FF ∧ decodeWord 0x0FFF = .sys 0xFFF ∧ decodeWord 0x5120 = .seReg 0x1 0x2 ∧
  decodeWord 0x5121 = .reserved5 0x1 0x2 0x1 ∧ decodeWord 0x912F = .reserved9 0x1 0x2 0xF ∧
  decodeWord 0x8126 = .shr 0x1 0x2 ∧ decodeWord 0x8128 = .reserved8 0x1 0x2 0x8 ∧
  decodeWord 0x812F = .reserved8 0x1 0x2 0xF ∧ decodeWord 0x812E = .shl 0x1 0x2 ∧
  decodeWord 0xE19E = .skp 0x1 ∧ decodeWord 0xE19F = .reservedE 0x1 0x9F ∧ decodeWord 0xF165 = .ldVxMem 0x1 ∧
  decodeWord 0xF175 = .reservedF 0x1 0x75 ∧ decodeWord 0xF1FF = .reservedF 0x1 0xFF ∧
  decodeWord 0xD120 = .drw 0x1 0x2 0x0 ∧ decodeWord 0xBFFF = .jpV0 0xFFF ∧
  decodeWord 0x1234 = .jp 0x234 ∧ decode [0x12, 0x34] = .ok (.jp 0x234, [])

/-! ### No-ops and control transfer -/

/-- R83: 0NNN changes nothing: its meaning ends in the state it began in, and the whole cycle on a word of 0NNN changes `PC`
alone, to `a + 2`. -/
def Obligations.NativeCallChangesOnlyThePc : Prop :=
  (∀ (s : State) (nnn : Addr12), exec (.sys nnn) s = .next s ∧ WordIs (.sys nnn) nnn.toNat) ∧
  ∀ (s : State) (w : Word), s.running → s.fetch = .ok w → IsSysWord w → cycle s = .next { s with pc := s.pc + 2 }

/-- R70: the reserved words of the classes (a) to (d) change nothing: each meaning ends in the state it began in, and the
whole cycle on such a word changes `PC` alone, to `a + 2`. Class (d) is the spec's decision D6, assumption log 13. -/
def Obligations.ReservedWordsChangeOnlyThePc : Prop :=
  (∀ (s : State) (x y : Reg) (n : Nibble) (nn : Byte),
    exec (.reserved5 x y n) s = .next s ∧ exec (.reserved8 x y n) s = .next s ∧
    exec (.reserved9 x y n) s = .next s ∧ exec (.reservedE x nn) s = .next s ∧ exec (.reservedF x nn) s = .next s) ∧
  ∀ (s : State) (w : Word), s.running → s.fetch = .ok w → IsReservedWord w → cycle s = .next { s with pc := s.pc + 2 }

/-- R82, R154: RET pops into PC; with the stack empty it raises StackUnderflow and nothing else changes. The slot layout is
the spec's decision D12, the record D4 (assumption logs 7, 11). -/
def Obligations.ReturnPopsThePc : Prop :=
  ∀ s : State,
    (∀ h : 0 < s.sp.val, ∃ t, exec .ret s = .next t ∧ t.sp.val = s.sp.val - 1 ∧
      t.pc = s.stack[s.sp.val - 1]'(by omega) ∧ t.stack = s.stack ∧ Frame s t [] [.pc, .stack]) ∧
    (s.sp.val = 0 → exec .ret s = .next (faulted s .stackUnderflow 0x00EE 0))

/-- R85, R153: CALL pushes the advanced PC and jumps; with 16 live entries it raises StackOverflow and nothing else
changes. The limit of 16 is the spec's decision D3, the record D4 (assumption logs 7, 10). -/
def Obligations.CallPushesTheReturnAddress : Prop :=
  ∀ (s : State) (nnn : Addr12),
    (s.sp.val < 16 → ∃ t, exec (.call nnn) s = .next t ∧ t.sp.val = s.sp.val + 1 ∧
      (∀ k : Fin 16, t.stack[k.val] = if k.val = s.sp.val then s.pc else s.stack[k.val]) ∧
      t.pc.toNat = nnn.toNat ∧ Frame s t [] [.pc, .stack]) ∧
    (s.sp.val = 16 → exec (.call nnn) s =
      .next (faulted s .stackOverflow (BitVec.ofNat 16 (0x2000 + nnn.toNat)) (BitVec.ofNat 16 nnn.toNat)))

/-- A return undoes a call (R82, R85, R92): CALL and then RET, with anything in between that leaves the stack pointer and
the live entries as the call left them (a balanced call and return included, which leave a stale value in a dead slot, R16,
D12, assumption log 11), come back to the instruction after the call with the stack pointer and the live entries as before
the call. -/
def Obligations.ReturnComesBackFromCall : Prop :=
  ∀ (s t u : State) (nnn : Addr12), s.sp.val < 16 → exec (.call nnn) s = .next t →
    (∀ k : Fin 16, k.val < t.sp.val → u.stack[k.val] = t.stack[k.val]) → u.sp = t.sp →
    ∃ r, exec .ret u = .next r ∧ r.pc = s.pc ∧ r.sp = s.sp ∧
      ∀ k : Fin 16, k.val < s.sp.val → r.stack[k.val] = s.stack[k.val]

/-- R84: JP sets PC to NNN and changes nothing else. -/
def Obligations.JumpSetsThePc : Prop :=
  ∀ (s : State) (nnn : Addr12), ∃ t, exec (.jp nnn) s = .next t ∧ t.pc.toNat = nnn.toNat ∧
    Frame s t [] [.pc] ∧ WordIs (.jp nnn) (0x1000 + nnn.toNat)

/-- R86 to R89: the four skips pass one instruction exactly when their comparison holds, and change nothing but
PC. Which of them skips on equal is the spec's reading D27 (R91; assumption log 17). -/
def Obligations.SkipsCompareAndPassOne : Prop :=
  ∀ (s : State) (x y : Reg) (nn : Byte),
    (∃ t, exec (.seImm x nn) s = .next t ∧ Frame s t [] [.pc] ∧
      t.pc.toNat = if s.reg x = nn then (s.pc.toNat + 2) % 65536 else s.pc.toNat) ∧
    (∃ t, exec (.sneImm x nn) s = .next t ∧ Frame s t [] [.pc] ∧
      t.pc.toNat = if s.reg x ≠ nn then (s.pc.toNat + 2) % 65536 else s.pc.toNat) ∧
    (∃ t, exec (.seReg x y) s = .next t ∧ Frame s t [] [.pc] ∧
      t.pc.toNat = if s.reg x = s.reg y then (s.pc.toNat + 2) % 65536 else s.pc.toNat) ∧
    (∃ t, exec (.sneReg x y) s = .next t ∧ Frame s t [] [.pc] ∧
      t.pc.toNat = if s.reg x ≠ s.reg y then (s.pc.toNat + 2) % 65536 else s.pc.toNat) ∧
    WordIs (.seImm x nn) (0x3000 + x.toNat * 256 + nn.toNat) ∧ WordIs (.sneImm x nn) (0x4000 + x.toNat * 256 + nn.toNat) ∧
    WordIs (.seReg x y) (0x5000 + x.toNat * 256 + y.toNat * 16) ∧ WordIs (.sneReg x y) (0x9000 + x.toNat * 256 + y.toNat * 16)

/-- R90: BNNN jumps to NNN plus V0 (legacy) or VX with X the top nibble of NNN (modern), not reduced to 12 bits (the spec's
decision D17, assumption log 16). -/
def Obligations.JumpWithOffsetAddsTheQuirkRegister : Prop :=
  ∀ (s : State) (nnn : Addr12), ∃ t, exec (.jpV0 nnn) s = .next t ∧ Frame s t [] [.pc] ∧
    t.pc.toNat = nnn.toNat +
      (if s.cfg.qJump0 then s.reg 0 else s.reg (BitVec.ofNat 4 (nnn.toNat / 256))).toNat

/-! ### Registers and arithmetic -/

/-- R100, R101: 6XNN loads NN, 7XNN adds it mod 256; neither touches VF unless X is 15, nor anything else. -/
def Obligations.ImmediateLoadAndAdd : Prop :=
  ∀ (s : State) (x : Reg) (nn : Byte),
    (∃ t, exec (.ldImm x nn) s = .next t ∧ t.reg x = nn ∧ Frame s t [x] []) ∧
    (∃ t, exec (.addImm x nn) s = .next t ∧
      (t.reg x).toNat = ((s.reg x).toNat + nn.toNat) % 256 ∧ Frame s t [x] []) ∧
    WordIs (.ldImm x nn) (0x6000 + x.toNat * 256 + nn.toNat) ∧ WordIs (.addImm x nn) (0x7000 + x.toNat * 256 + nn.toNat)

/-- R102 to R105: assign, OR, AND and XOR, bit by bit; no flag, nothing else changed. Which selector is which
operation is the spec's reading D27 (assumption log 17). -/
def Obligations.AssignAndBitwiseOps : Prop :=
  ∀ (s : State) (x y : Reg),
    (∃ t, exec (.ldReg x y) s = .next t ∧ t.reg x = s.reg y ∧ Frame s t [x] []) ∧
    (∃ t, exec (.orReg x y) s = .next t ∧ Frame s t [x] [] ∧
      ∀ k, (t.reg x).getLsbD k = ((s.reg x).getLsbD k || (s.reg y).getLsbD k)) ∧
    (∃ t, exec (.andReg x y) s = .next t ∧ Frame s t [x] [] ∧
      ∀ k, (t.reg x).getLsbD k = ((s.reg x).getLsbD k && (s.reg y).getLsbD k)) ∧
    (∃ t, exec (.xorReg x y) s = .next t ∧ Frame s t [x] [] ∧
      ∀ k, (t.reg x).getLsbD k = ((s.reg x).getLsbD k ^^ (s.reg y).getLsbD k)) ∧
    WordIs (.ldReg x y) (0x8000 + x.toNat * 256 + y.toNat * 16) ∧ WordIs (.orReg x y) (0x8001 + x.toNat * 256 + y.toNat * 16) ∧
    WordIs (.andReg x y) (0x8002 + x.toNat * 256 + y.toNat * 16) ∧ WordIs (.xorReg x y) (0x8003 + x.toNat * 256 + y.toNat * 16)

/-- R106: the sum mod 256, VF = 1 exactly when the sum exceeds 255, VF written last. That VF is 0 otherwise is the
spec's reading D23 (assumption log 19). -/
def Obligations.AddWritesSumAndCarry : Prop :=
  ∀ (s : State) (x y : Reg), ∃ t, exec (.addReg x y) s = .next t ∧
    (x ≠ 15 → (t.reg x).toNat = ((s.reg x).toNat + (s.reg y).toNat) % 256) ∧
    t.reg 15 = (if (s.reg x).toNat + (s.reg y).toNat > 255 then 1 else 0) ∧ Frame s t [x, 15] [] ∧
    WordIs (.addReg x y) (0x8004 + x.toNat * 256 + y.toNat * 16)

/-- R107, R109: the difference mod 256, VF = 1 exactly when there is no borrow, VF written last. That VF is 0
otherwise is the spec's reading D23, that 8XY7 is the reversed subtraction D27 (assumption logs 17, 19). -/
def Obligations.SubtractionsWriteDifferenceAndNoBorrow : Prop :=
  ∀ (s : State) (x y : Reg),
    (∃ t, exec (.sub x y) s = .next t ∧
      (x ≠ 15 → ((t.reg x).toNat : Int) = ((s.reg x).toNat - (s.reg y).toNat : Int) % 256) ∧
      t.reg 15 = (if (s.reg x).toNat ≥ (s.reg y).toNat then 1 else 0) ∧ Frame s t [x, 15] []) ∧
    (∃ t, exec (.subn x y) s = .next t ∧
      (x ≠ 15 → ((t.reg x).toNat : Int) = ((s.reg y).toNat - (s.reg x).toNat : Int) % 256) ∧
      t.reg 15 = (if (s.reg y).toNat ≥ (s.reg x).toNat then 1 else 0) ∧ Frame s t [x, 15] []) ∧
    WordIs (.sub x y) (0x8005 + x.toNat * 256 + y.toNat * 16) ∧ WordIs (.subn x y) (0x8007 + x.toNat * 256 + y.toNat * 16)

/-- R108, R110: shifts by one of VX (modern) or VY (legacy) into VX, VF = the bit shifted out, VF written last. That
VY is not changed is the spec's inference (R108 "[derived: the source names VX as the only destination]"), which selector
is which shift its reading D27 (assumption log 17). -/
def Obligations.ShiftsMoveTheQuirkSource : Prop :=
  ∀ (s : State) (x y : Reg) (src : Nat), src = (if s.cfg.qShift then s.reg y else s.reg x).toNat →
    (∃ t, exec (.shr x y) s = .next t ∧ (x ≠ 15 → (t.reg x).toNat = src / 2) ∧
      (t.reg 15).toNat = src % 2 ∧ Frame s t [x, 15] []) ∧
    (∃ t, exec (.shl x y) s = .next t ∧ (x ≠ 15 → (t.reg x).toNat = src * 2 % 256) ∧
      (t.reg 15).toNat = src / 128 ∧ Frame s t [x, 15] [])

/-- R112: RND writes the cycle's input byte AND NN, for every input byte; NN = 0 gives 0 whatever the byte is. The
statement holds for every value of the free byte. -/
def Obligations.RandomIsMaskedInput : Prop :=
  ∀ (s : State) (x : Reg) (nn rnd : Byte), s.input.rnd = rnd →
    ∃ t, exec (.rnd x nn) s = .next t ∧ Frame s t [x] [] ∧
      (∀ k, (t.reg x).getLsbD k = (rnd.getLsbD k && nn.getLsbD k)) ∧ (nn = 0 → t.reg x = 0)

/-- R12: each of the seven flag writers that does not end in FATAL leaves VF at 0 or 1 (0 where its condition is
false: the spec's decision D23, assumption log 19); every other instruction changes VF only
as an ordinary destination, and every instruction changes no register that is neither its destination nor its flag. -/
def Obligations.VfIsWrittenByTheSevenFlagWriters : Prop :=
  ∀ (i : Instr) (s t : State), exec i s = .next t →
    (writesFlag i = true → t.running → t.reg 15 = 0 ∨ t.reg 15 = 1) ∧
    (writesFlag i = false → (15 : Reg) ∉ destRegs i → t.reg 15 = s.reg 15) ∧
    ∀ r, r ≠ 15 → r ∉ destRegs i → t.reg r = s.reg r

/-! ### Index register and memory -/

/-- R120: ANNN loads NNN into I and changes nothing else. -/
def Obligations.LoadIndexSetsTheIndex : Prop :=
  ∀ (s : State) (nnn : Addr12), ∃ t, exec (.ldI nnn) s = .next t ∧ t.i.toNat = nnn.toNat ∧
    Frame s t [] [.index] ∧ WordIs (.ldI nnn) (0xA000 + nnn.toNat)

/-- R122: FX29 loads `0x050 + 5 * VX`, the whole byte of VX, no masking (the spec's decision D25, assumption log 18). -/
def Obligations.GlyphAddressUsesTheWholeByte : Prop :=
  ∀ (s : State) (x : Reg), ∃ t, exec (.ldF x) s = .next t ∧ t.i.toNat = 0x050 + 5 * (s.reg x).toNat ∧ Frame s t [] [.index]

/-- R121: the sum mod 65536 to I (the spec's decision D17, assumption log 16), VF = 1 exactly when the sum exceeds
0xFFF, else 0 (D23, assumption log 19). -/
def Obligations.IndexAddSetsOverflowFlag : Prop :=
  ∀ (s : State) (x : Reg), ∃ t, exec (.addI x) s = .next t ∧
    t.i.toNat = (s.i.toNat + (s.reg x).toNat) % 65536 ∧
    t.reg 15 = (if s.i.toNat + (s.reg x).toNat > 0xFFF then 1 else 0) ∧ Frame s t [15] [.index]

/-- R123: the three decimal digits at I, I + 1 and I + 2; every other byte and everything else unchanged. -/
def Obligations.DecimalStoreWritesThreeDigits : Prop :=
  ∀ (s : State) (x : Reg), InBounds s.cfg s.i 3 → ∃ t, exec (.ldB x) s = .next t ∧
    (t.readByte s.i.toNat).toNat = (s.reg x).toNat / 100 ∧
    (t.readByte (s.i.toNat + 1)).toNat = (s.reg x).toNat / 10 % 10 ∧
    (t.readByte (s.i.toNat + 2)).toNat = (s.reg x).toNat % 10 ∧
    KeepsOtherBytes s t s.i.toNat 3 ∧ Frame s t [] [.memory]

/-- R124: V0 to VX to memory from I up; I plus X + 1 mod 65536 under Q_INCI, else unchanged; every other byte and
everything else unchanged. -/
def Obligations.BlockStoreWritesTheRegisters : Prop :=
  ∀ (s : State) (x : Reg), InBounds s.cfg s.i (x.toNat + 1) → ∃ t, exec (.ldMemVx x) s = .next t ∧
    (∀ r : Reg, r.toNat ≤ x.toNat → t.readByte (s.i.toNat + r.toNat) = s.reg r) ∧
    t.i.toNat = (if s.cfg.qInci then (s.i.toNat + x.toNat + 1) % 65536 else s.i.toNat) ∧
    KeepsOtherBytes s t s.i.toNat (x.toNat + 1) ∧ Frame s t [] [.memory, .index]

/-- R125: V0 to VX from memory from I up; I as R124; the registers above VX and everything else unchanged. -/
def Obligations.BlockLoadReadsTheRegisters : Prop :=
  ∀ (s : State) (x : Reg), InBounds s.cfg s.i (x.toNat + 1) → ∃ t, exec (.ldVxMem x) s = .next t ∧
    (∀ r : Reg, r.toNat ≤ x.toNat → t.reg r = s.readByte (s.i.toNat + r.toNat)) ∧
    (∀ r : Reg, x.toNat < r.toNat → t.reg r = s.reg r) ∧
    t.i.toNat = (if s.cfg.qInci then (s.i.toNat + x.toNat + 1) % 65536 else s.i.toNat) ∧
    Frame s t (regsUpTo x) [.index]

/-- R126, R155 for the four instructions with several bytes: where an address they would use is above 0xFFF under the
decided policy (D2, D10; assumption logs 2, 15) they raise MemoryBounds with the lowest such address, and nothing but FATAL and FREC changes. -/
def Obligations.OutOfBoundsAccessIsFatal : Prop :=
  ∀ (s : State) (x y : Reg) (n : Nibble) (e : Word),
    e = (if s.i.toNat > 0xFFF then s.i else 0x1000) → s.cfg.oobPolicy = .fault →
    (s.i.toNat + 2 > 0xFFF → exec (.ldB x) s = .next (faulted s .memoryBounds (encode (.ldB x)) e)) ∧
    (s.i.toNat + x.toNat > 0xFFF → exec (.ldMemVx x) s = .next (faulted s .memoryBounds (encode (.ldMemVx x)) e)) ∧
    (s.i.toNat + x.toNat > 0xFFF → exec (.ldVxMem x) s = .next (faulted s .memoryBounds (encode (.ldVxMem x)) e)) ∧
    (1 ≤ n.toNat → s.i.toNat + n.toNat - 1 > 0xFFF →
      exec (.drw x y n) s = .next (faulted s .memoryBounds (encode (.drw x y n)) e))

/-- 95_test_vectors.md S5 (R124, R125): FX55 and then FX65 with the same X and I, in any state between whose memory and
configuration are those the store left, restore V0 to VX. -/
def Obligations.StoreThenLoadRestoresTheRegisters : Prop :=
  ∀ (s t u : State) (x : Reg), InBounds s.cfg s.i (x.toNat + 1) → exec (.ldMemVx x) s = .next t →
    u.mem = t.mem → u.cfg = t.cfg → u.i = s.i →
    ∃ r, exec (.ldVxMem x) u = .next r ∧ ∀ q : Reg, q.toNat ≤ x.toNat → r.reg q = s.reg q

/-- R43, R49 (c): a byte of memory reads as the latest write to it, and a write leaves every other byte alone; addresses
are the same byte exactly when the policy of R44 takes them to the same index. -/
def Obligations.ReadReturnsTheLatestWrite : Prop :=
  ∀ (s : State) (a b : Nat) (u : Byte), s.cfg.oobPolicy = .wrap ∨ a ≤ 0xFFF →
    (s.writeByte a u).readByte b = if effAddr s.cfg b = effAddr s.cfg a then u else s.readByte b

/-- R51, R41: an instruction word stored by FX55 with V0 the high byte at I and V1 the low byte at I + 1 is what the next
fetch at I reads. -/
def Obligations.StoredWordIsFetched : Prop :=
  ∀ s : State, InBounds s.cfg s.i 2 → ∃ t, exec (.ldMemVx 1) s = .next t ∧
    ({ t with pc := s.i }).fetch = .ok (wordOfBytes (s.reg 0) (s.reg 1))

/-- R181: FX33 and FX55 are the only instructions that change a byte of memory. -/
def Obligations.OnlyTwoInstructionsStore : Prop :=
  ∀ (i : Instr) (s t : State), exec i s = .next t → (∀ x, i ≠ .ldB x) → (∀ x, i ≠ .ldMemVx x) →
    t.mem = s.mem ∧ ∀ a, t.readByte a = s.readByte a

/-! ### Display -/

/-- R131: CLS zeroes the bitmap, emits exactly one Clear, and changes nothing else; VF is not written. -/
def Obligations.ClearZeroesTheDisplay : Prop :=
  ∀ s : State, ∃ t, exec .cls s = .next t ∧ (∀ x y, t.pixel x y = false) ∧
    t.out = s.out ++ [.clear] ∧ Frame s t [] [.display] ∧ WordIs .cls 0x00E0

/-- R132 to R135: DRW inverts exactly the pixels of the sprite's set bits that are on the screen, origin mod 64 and mod 32
taken from the operands before VF is written, clipped and not wrapped; VF is 1 exactly when one of them was on; nothing
else but the event stream changes. That the operands are read before VF is reset, also for X or Y = 15, is the spec's
decision D9 (C3; assumption log 14). -/
def Obligations.DrawInvertsTheSpritePixels : Prop :=
  ∀ (s : State) (x y : Reg) (n : Nibble), InBounds s.cfg s.i n.toNat → ∃ t, exec (.drw x y n) s = .next t ∧
    (∀ px py, Toggles s x y n px py → t.pixel px py = !s.pixel px py) ∧
    (∀ px py, ¬Toggles s x y n px py → t.pixel px py = s.pixel px py) ∧
    ((∃ px py, Toggles s x y n px py ∧ s.pixel px py = true) → t.reg 15 = 1) ∧
    ((∀ px py, Toggles s x y n px py → s.pixel px py = false) → t.reg 15 = 0) ∧
    Frame s t [15] [.display]

/-- R136: DRW appends one Pixel event for each pixel it inverts, with the pixel's new value, and no other event; their
order is left open here (D11; that events are a list in the state is the model's choice, assumption log 12). -/
def Obligations.DrawEmitsOneEventPerPixel : Prop :=
  ∀ (s : State) (x y : Reg) (n : Nibble), InBounds s.cfg s.i n.toNat → ∃ t evs, exec (.drw x y n) s = .next t ∧
    t.out = s.out ++ evs ∧ evs.Nodup ∧ SinkEvent.clear ∉ evs ∧
    ∀ px py on, SinkEvent.pixel px py on ∈ evs ↔ (Toggles s x y n px py ∧ on = t.pixel px py)

/-- R138: drawing the same sprite at the same place twice, with no change in between, restores the bitmap, for X and Y
different from 15; the first draw reports VF = 1 exactly when a pixel of the mask was on in the original bitmap, the second
exactly when one was off. -/
def Obligations.DoubleDrawRestoresTheBitmap : Prop :=
  ∀ (s : State) (x y : Reg) (n : Nibble), InBounds s.cfg s.i n.toNat → x ≠ 15 → y ≠ 15 →
    ∃ t u, exec (.drw x y n) s = .next t ∧ exec (.drw x y n) t = .next u ∧ u.disp = s.disp ∧
      (t.reg 15 = 1 ↔ ∃ px py, Toggles s x y n px py ∧ s.pixel px py = true) ∧
      (u.reg 15 = 1 ↔ ∃ px py, Toggles s x y n px py ∧ s.pixel px py = false)

/-- R18: DRW and CLS are the only instructions that change DISP, and the only ones that emit events (R136). -/
def Obligations.OnlyDrawAndClearTouchTheDisplay : Prop :=
  ∀ (i : Instr) (s t : State), exec i s = .next t → i ≠ .cls → (∀ x y n, i ≠ .drw x y n) →
    t.disp = s.disp ∧ t.out = s.out

/-- R136, the last sentence, as an invariant that every step keeps: the sink that applies all events in order to an
initially blank screen holds a copy of DISP. -/
def Obligations.EveryStepKeepsTheSinkACopy : Prop :=
  ∀ s t : State, s.SinkAgrees → step s = .next t → t.SinkAgrees

/-! ### Keypad and timers -/

/-- R140, R141 (the policies are the spec's decision D5, assumption log 3): where the key index names a key (VX at most 15; its low four bits under the alternative policy) SKP skips
exactly when that key is pressed and SKNP exactly when it is not; nothing but PC changes. -/
def Obligations.KeyTestsSkip : Prop :=
  ∀ (s : State) (x : Reg) (k : Nat),
    ((s.reg x).toNat ≤ 15 ∧ k = (s.reg x).toNat) ∨ (s.cfg.keyPolicy = .mask4 ∧ k = (s.reg x).toNat % 16) →
    (∃ t, exec (.skp x) s = .next t ∧ Frame s t [] [.pc] ∧
      t.pc = if s.kp.getLsbD k = true then s.pc + 2 else s.pc) ∧
    (∃ t, exec (.sknp x) s = .next t ∧ Frame s t [] [.pc] ∧
      t.pc = if s.kp.getLsbD k = false then s.pc + 2 else s.pc)

/-- R156: under the decided policy (D5, assumption log 3) a key test with VX above 15 raises KeyIndexRange(VX) and changes nothing but FATAL and
FREC. -/
def Obligations.KeyIndexAboveFifteenIsFatal : Prop :=
  ∀ (s : State) (x : Reg), s.cfg.keyPolicy = .fault → (s.reg x).toNat > 15 →
    exec (.skp x) s = .next (faulted s .keyIndexRange (encode (.skp x)) (BitVec.ofNat 16 (s.reg x).toNat)) ∧
    exec (.sknp x) s = .next (faulted s .keyIndexRange (encode (.sknp x)) (BitVec.ofNat 16 (s.reg x).toNat))

/-- R142: with a key pressed the lowest pressed index goes to VX and PC stays a + 2; with none, PC goes back to a and nothing
else changes, and the whole cycle changes nothing at all. The form that rewinds PC is the source's §4.2, which the spec follows
(C2, D18; assumption log 21). -/
def Obligations.WaitForKeyTakesTheLowestKey : Prop :=
  ∀ (s : State) (x : Reg),
    (∀ k : Nat, k < 16 → s.kp.getLsbD k = true → (∀ j, j < k → s.kp.getLsbD j = false) →
      ∃ t, exec (.ldVxK x) s = .next t ∧ (t.reg x).toNat = k ∧ t.pc = s.pc ∧ Frame s t [x] []) ∧
    (s.kp = 0 → exec (.ldVxK x) s = .next { s with pc := s.pc - 2 } ∧
      (s.running → s.fetch = .ok (encode (.ldVxK x)) → cycle s = .next s)) ∧
    WordIs (.ldVxK x) (0xF00A + x.toNat * 256)

/-- R143, R144, R145: the three timer moves. -/
def Obligations.TimerMoves : Prop :=
  ∀ (s : State) (x : Reg),
    (∃ t, exec (.ldVxDt x) s = .next t ∧ t.reg x = s.dt ∧ Frame s t [x] []) ∧
    (∃ t, exec (.ldDtVx x) s = .next t ∧ t.dt = s.reg x ∧ Frame s t [] [.delay]) ∧
    (∃ t, exec (.ldStVx x) s = .next t ∧ t.st = s.reg x ∧ Frame s t [] [.sound]) ∧
    WordIs (.ldVxDt x) (0xF007 + x.toNat * 256) ∧ WordIs (.ldDtVx x) (0xF015 + x.toNat * 256) ∧
    WordIs (.ldStVx x) (0xF018 + x.toNat * 256)

/-- R160 (one event for both timers: the spec's decision D8, assumption log 24): a TimerTick while running decrements each timer that is nonzero, each by its own test, and changes nothing
else. -/
def Obligations.TickCountsDownNonzeroTimers : Prop :=
  ∀ s : State, s.running →
    s.timerTick.dt.toNat = s.dt.toNat - 1 ∧ s.timerTick.st.toNat = s.st.toNat - 1 ∧
    s.timerTick = { s with dt := s.timerTick.dt, st := s.timerTick.st }

/-- R162, the countdown law (which the spec derives from R160): after `k` TimerTick events a timer that held `n` holds `n - k` for `k <= n` and 0 for `k > n`,
whichever of the two it is. -/
def Obligations.TimerReachesZeroAfterExactlyNTicks : Prop :=
  ∀ (s : State) (k : Nat), s.running →
    ((State.timerTick^[k] s).dt.toNat = if k ≤ s.dt.toNat then s.dt.toNat - k else 0) ∧
    ((State.timerTick^[k] s).st.toNat = if k ≤ s.st.toNat then s.st.toNat - k else 0)

/-- R161, R186, the fairness assumption, and R162: in a run that stays out of FATAL, under any schedule in which ticks go
on occurring, a timer that no cycle writes reaches 0 and stays there. Nothing else about time is assumed. That the schedule
is open but for fairness is the spec's decision D8 (assumption logs 5, 24, 32). -/
def Obligations.FairTicksBringTheTimersToZero : Prop :=
  ∀ (e : Nat → LoopInput) (σ : Nat → State), FairTicks e → RunsUnder e σ → (∀ k, (σ k).running) →
    ((∀ k w x, (σ k).fetch = .ok w → decodeWord w ≠ .ldDtVx x) → ∃ n, ∀ k, n ≤ k → (σ k).dt = 0) ∧
    ((∀ k w x, (σ k).fetch = .ok w → decodeWord w ≠ .ldStVx x) → ∃ n, ∀ k, n ≤ k → (σ k).st = 0)

/-! ### Whole-machine rules -/

/-- R151, R152, R158 (decisions D2 to D5, D26; assumption logs 2, 3, 7): a faulting instruction changes nothing but FATAL and FREC; the record holds the address fetched from,
the instruction's word and the one cause the instruction can raise. -/
def Obligations.FaultsArePrecise : Prop :=
  ∀ (i : Instr) (s t : State), s.running → exec i s = .next t → t.fatal = true →
    possibleCause i = some t.frec.cause ∧ t = faulted s t.frec.cause (encode i) t.frec.info

/-- R152 (decisions D2 to D5; assumption logs 2, 3, 7, 10): the four conditions, and no other, are fatal: an instruction ends in FATAL exactly when its condition holds. -/
def Obligations.FatalExactlyOnTheFourConditions : Prop :=
  ∀ (i : Instr) (s t : State), s.running → exec i s = .next t →
    (t.fatal = true ↔
      ((∃ nnn, i = .call nnn) ∧ s.sp.val = 16) ∨ (i = .ret ∧ s.sp.val = 0) ∨
      ((∃ x y n, i = .drw x y n ∧ ¬InBounds s.cfg s.i n.toNat) ∨ (∃ x, i = .ldB x ∧ ¬InBounds s.cfg s.i 3) ∨
        (∃ x, (i = .ldMemVx x ∨ i = .ldVxMem x) ∧ ¬InBounds s.cfg s.i (x.toNat + 1))) ∨
      (∃ x, (i = .skp x ∨ i = .sknp x) ∧ s.cfg.keyPolicy = .fault ∧ (s.reg x).toNat > 15))

/-- R16, R17: CALL and RET are the only instructions that change the call stack or SP. -/
def Obligations.OnlyCallAndReturnTouchTheStack : Prop :=
  ∀ (i : Instr) (s t : State), exec i s = .next t → (∀ nnn, i ≠ .call nnn) → i ≠ .ret →
    t.stack = s.stack ∧ t.sp = s.sp

/-- R13, R20, R21, R22: I, DT, ST change only under the instructions the rules name, and KP under none. -/
def Obligations.SpecialRegistersHaveTheirWriters : Prop :=
  ∀ (i : Instr) (s t : State), exec i s = .next t →
    ((∀ nnn, i ≠ .ldI nnn) → (∀ x, i ≠ .addI x ∧ i ≠ .ldF x) →
      (s.cfg.qInci = false ∨ ∀ x, i ≠ .ldMemVx x ∧ i ≠ .ldVxMem x) → t.i = s.i) ∧
    ((∀ x, i ≠ .ldDtVx x) → t.dt = s.dt) ∧ ((∀ x, i ≠ .ldStVx x) → t.st = s.st) ∧ t.kp = s.kp

/-- R23, R171: no step and no reset changes a quirk flag or another parameter of the instance. -/
def Obligations.NothingChangesTheConfiguration : Prop :=
  (∀ s t : State, step s = .next t → t.cfg = s.cfg) ∧
  (∀ (i : Instr) (s t : State), exec i s = .next t → t.cfg = s.cfg) ∧ ∀ s : State, s.hostReset.cfg = s.cfg

/-- An invariant every step keeps (20_memory.md R40, R46): memory stays in its canonical form, every listed byte inside
0x000 to 0xFFF, listed once, and different from its reset contents, so equal memories are equal data. -/
def Obligations.EveryStepKeepsMemoryCanonical : Prop :=
  ∀ s t : State, s.MemCanonical → step s = .next t → t.MemCanonical

/-- An invariant every step keeps (10_state.md R24): where FATAL is 1, FREC holds one of the four causes. -/
def Obligations.EveryStepKeepsTheRecordValid : Prop :=
  ∀ s t : State, s.FaultRecorded → step s = .next t → t.FaultRecorded

/-- The three invariants hold at reset, for every parameter of the instance. -/
def Obligations.InvariantsHoldAtReset : Prop :=
  ∀ cfg : Config, (State.init cfg).MemCanonical ∧ (State.init cfg).SinkAgrees ∧ (State.init cfg).FaultRecorded
end

