-- ==== Sys2Proof/Laws/State.lean ====
section
/-! SUPPORT. One lemma per field per update, true by rfl: no later proof unfolds a record update. Then the accessors
`reg`, `readByte` and `pixel` over the updates that leave them alone, and over the one that does not. -/

namespace Sys2Proof.Machine

/-! ### `setReg` -/

@[simp] theorem setReg_mem (s : State) (r : Reg) (u : Byte) : (s.setReg r u).mem = s.mem := rfl
@[simp] theorem setReg_i (s : State) (r : Reg) (u : Byte) : (s.setReg r u).i = s.i := rfl
@[simp] theorem setReg_pc (s : State) (r : Reg) (u : Byte) : (s.setReg r u).pc = s.pc := rfl
@[simp] theorem setReg_stack (s : State) (r : Reg) (u : Byte) : (s.setReg r u).stack = s.stack := rfl
@[simp] theorem setReg_sp (s : State) (r : Reg) (u : Byte) : (s.setReg r u).sp = s.sp := rfl
@[simp] theorem setReg_disp (s : State) (r : Reg) (u : Byte) : (s.setReg r u).disp = s.disp := rfl
@[simp] theorem setReg_kp (s : State) (r : Reg) (u : Byte) : (s.setReg r u).kp = s.kp := rfl
@[simp] theorem setReg_dt (s : State) (r : Reg) (u : Byte) : (s.setReg r u).dt = s.dt := rfl
@[simp] theorem setReg_st (s : State) (r : Reg) (u : Byte) : (s.setReg r u).st = s.st := rfl
@[simp] theorem setReg_fatal (s : State) (r : Reg) (u : Byte) : (s.setReg r u).fatal = s.fatal := rfl
@[simp] theorem setReg_frec (s : State) (r : Reg) (u : Byte) : (s.setReg r u).frec = s.frec := rfl
@[simp] theorem setReg_cfg (s : State) (r : Reg) (u : Byte) : (s.setReg r u).cfg = s.cfg := rfl
@[simp] theorem setReg_inputs (s : State) (r : Reg) (u : Byte) : (s.setReg r u).inputs = s.inputs := rfl
@[simp] theorem setReg_iter (s : State) (r : Reg) (u : Byte) : (s.setReg r u).iter = s.iter := rfl
@[simp] theorem setReg_out (s : State) (r : Reg) (u : Byte) : (s.setReg r u).out = s.out := rfl
@[simp] theorem setReg_started (s : State) (r : Reg) (u : Byte) : (s.setReg r u).started = s.started := rfl
@[simp] theorem setReg_readByte (s : State) (r : Reg) (u : Byte) (adr : Nat) : (s.setReg r u).readByte adr = s.readByte adr := rfl
@[simp] theorem setReg_pixel (s : State) (r : Reg) (u : Byte) (px : Fin 64) (py : Fin 32) : (s.setReg r u).pixel px py = s.pixel px py := rfl

/-! ### `setI` -/

@[simp] theorem setI_mem (s : State) (a : Word) : (s.setI a).mem = s.mem := rfl
@[simp] theorem setI_v (s : State) (a : Word) : (s.setI a).v = s.v := rfl
@[simp] theorem setI_i (s : State) (a : Word) : (s.setI a).i = a := rfl
@[simp] theorem setI_pc (s : State) (a : Word) : (s.setI a).pc = s.pc := rfl
@[simp] theorem setI_stack (s : State) (a : Word) : (s.setI a).stack = s.stack := rfl
@[simp] theorem setI_sp (s : State) (a : Word) : (s.setI a).sp = s.sp := rfl
@[simp] theorem setI_disp (s : State) (a : Word) : (s.setI a).disp = s.disp := rfl
@[simp] theorem setI_kp (s : State) (a : Word) : (s.setI a).kp = s.kp := rfl
@[simp] theorem setI_dt (s : State) (a : Word) : (s.setI a).dt = s.dt := rfl
@[simp] theorem setI_st (s : State) (a : Word) : (s.setI a).st = s.st := rfl
@[simp] theorem setI_fatal (s : State) (a : Word) : (s.setI a).fatal = s.fatal := rfl
@[simp] theorem setI_frec (s : State) (a : Word) : (s.setI a).frec = s.frec := rfl
@[simp] theorem setI_cfg (s : State) (a : Word) : (s.setI a).cfg = s.cfg := rfl
@[simp] theorem setI_inputs (s : State) (a : Word) : (s.setI a).inputs = s.inputs := rfl
@[simp] theorem setI_iter (s : State) (a : Word) : (s.setI a).iter = s.iter := rfl
@[simp] theorem setI_out (s : State) (a : Word) : (s.setI a).out = s.out := rfl
@[simp] theorem setI_started (s : State) (a : Word) : (s.setI a).started = s.started := rfl
@[simp] theorem setI_reg (s : State) (a : Word) (q : Reg) : (s.setI a).reg q = s.reg q := rfl
@[simp] theorem setI_readByte (s : State) (a : Word) (adr : Nat) : (s.setI a).readByte adr = s.readByte adr := rfl
@[simp] theorem setI_pixel (s : State) (a : Word) (px : Fin 64) (py : Fin 32) : (s.setI a).pixel px py = s.pixel px py := rfl

/-! ### `setPc` -/

@[simp] theorem setPc_mem (s : State) (a : Word) : (s.setPc a).mem = s.mem := rfl
@[simp] theorem setPc_v (s : State) (a : Word) : (s.setPc a).v = s.v := rfl
@[simp] theorem setPc_i (s : State) (a : Word) : (s.setPc a).i = s.i := rfl
@[simp] theorem setPc_pc (s : State) (a : Word) : (s.setPc a).pc = a := rfl
@[simp] theorem setPc_stack (s : State) (a : Word) : (s.setPc a).stack = s.stack := rfl
@[simp] theorem setPc_sp (s : State) (a : Word) : (s.setPc a).sp = s.sp := rfl
@[simp] theorem setPc_disp (s : State) (a : Word) : (s.setPc a).disp = s.disp := rfl
@[simp] theorem setPc_kp (s : State) (a : Word) : (s.setPc a).kp = s.kp := rfl
@[simp] theorem setPc_dt (s : State) (a : Word) : (s.setPc a).dt = s.dt := rfl
@[simp] theorem setPc_st (s : State) (a : Word) : (s.setPc a).st = s.st := rfl
@[simp] theorem setPc_fatal (s : State) (a : Word) : (s.setPc a).fatal = s.fatal := rfl
@[simp] theorem setPc_frec (s : State) (a : Word) : (s.setPc a).frec = s.frec := rfl
@[simp] theorem setPc_cfg (s : State) (a : Word) : (s.setPc a).cfg = s.cfg := rfl
@[simp] theorem setPc_inputs (s : State) (a : Word) : (s.setPc a).inputs = s.inputs := rfl
@[simp] theorem setPc_iter (s : State) (a : Word) : (s.setPc a).iter = s.iter := rfl
@[simp] theorem setPc_out (s : State) (a : Word) : (s.setPc a).out = s.out := rfl
@[simp] theorem setPc_started (s : State) (a : Word) : (s.setPc a).started = s.started := rfl
@[simp] theorem setPc_reg (s : State) (a : Word) (q : Reg) : (s.setPc a).reg q = s.reg q := rfl
@[simp] theorem setPc_readByte (s : State) (a : Word) (adr : Nat) : (s.setPc a).readByte adr = s.readByte adr := rfl
@[simp] theorem setPc_pixel (s : State) (a : Word) (px : Fin 64) (py : Fin 32) : (s.setPc a).pixel px py = s.pixel px py := rfl

/-! ### `advance` -/

@[simp] theorem advance_mem (s : State) : (s.advance).mem = s.mem := rfl
@[simp] theorem advance_v (s : State) : (s.advance).v = s.v := rfl
@[simp] theorem advance_i (s : State) : (s.advance).i = s.i := rfl
@[simp] theorem advance_pc (s : State) : (s.advance).pc = s.pc + 2 := rfl
@[simp] theorem advance_stack (s : State) : (s.advance).stack = s.stack := rfl
@[simp] theorem advance_sp (s : State) : (s.advance).sp = s.sp := rfl
@[simp] theorem advance_disp (s : State) : (s.advance).disp = s.disp := rfl
@[simp] theorem advance_kp (s : State) : (s.advance).kp = s.kp := rfl
@[simp] theorem advance_dt (s : State) : (s.advance).dt = s.dt := rfl
@[simp] theorem advance_st (s : State) : (s.advance).st = s.st := rfl
@[simp] theorem advance_fatal (s : State) : (s.advance).fatal = s.fatal := rfl
@[simp] theorem advance_frec (s : State) : (s.advance).frec = s.frec := rfl
@[simp] theorem advance_cfg (s : State) : (s.advance).cfg = s.cfg := rfl
@[simp] theorem advance_inputs (s : State) : (s.advance).inputs = s.inputs := rfl
@[simp] theorem advance_iter (s : State) : (s.advance).iter = s.iter := rfl
@[simp] theorem advance_out (s : State) : (s.advance).out = s.out := rfl
@[simp] theorem advance_started (s : State) : (s.advance).started = s.started := rfl
@[simp] theorem advance_reg (s : State) (q : Reg) : (s.advance).reg q = s.reg q := rfl
@[simp] theorem advance_readByte (s : State) (adr : Nat) : (s.advance).readByte adr = s.readByte adr := rfl
@[simp] theorem advance_pixel (s : State) (px : Fin 64) (py : Fin 32) : (s.advance).pixel px py = s.pixel px py := rfl

/-! ### `rewind` -/

@[simp] theorem rewind_mem (s : State) : (s.rewind).mem = s.mem := rfl
@[simp] theorem rewind_v (s : State) : (s.rewind).v = s.v := rfl
@[simp] theorem rewind_i (s : State) : (s.rewind).i = s.i := rfl
@[simp] theorem rewind_pc (s : State) : (s.rewind).pc = s.pc - 2 := rfl
@[simp] theorem rewind_stack (s : State) : (s.rewind).stack = s.stack := rfl
@[simp] theorem rewind_sp (s : State) : (s.rewind).sp = s.sp := rfl
@[simp] theorem rewind_disp (s : State) : (s.rewind).disp = s.disp := rfl
@[simp] theorem rewind_kp (s : State) : (s.rewind).kp = s.kp := rfl
@[simp] theorem rewind_dt (s : State) : (s.rewind).dt = s.dt := rfl
@[simp] theorem rewind_st (s : State) : (s.rewind).st = s.st := rfl
@[simp] theorem rewind_fatal (s : State) : (s.rewind).fatal = s.fatal := rfl
@[simp] theorem rewind_frec (s : State) : (s.rewind).frec = s.frec := rfl
@[simp] theorem rewind_cfg (s : State) : (s.rewind).cfg = s.cfg := rfl
@[simp] theorem rewind_inputs (s : State) : (s.rewind).inputs = s.inputs := rfl
@[simp] theorem rewind_iter (s : State) : (s.rewind).iter = s.iter := rfl
@[simp] theorem rewind_out (s : State) : (s.rewind).out = s.out := rfl
@[simp] theorem rewind_started (s : State) : (s.rewind).started = s.started := rfl
@[simp] theorem rewind_reg (s : State) (q : Reg) : (s.rewind).reg q = s.reg q := rfl
@[simp] theorem rewind_readByte (s : State) (adr : Nat) : (s.rewind).readByte adr = s.readByte adr := rfl
@[simp] theorem rewind_pixel (s : State) (px : Fin 64) (py : Fin 32) : (s.rewind).pixel px py = s.pixel px py := rfl

/-! ### `skipIf` -/

@[simp] theorem skipIf_mem (s : State) (c : Bool) : (s.skipIf c).mem = s.mem := rfl
@[simp] theorem skipIf_v (s : State) (c : Bool) : (s.skipIf c).v = s.v := rfl
@[simp] theorem skipIf_i (s : State) (c : Bool) : (s.skipIf c).i = s.i := rfl
@[simp] theorem skipIf_pc (s : State) (c : Bool) : (s.skipIf c).pc = if c then s.pc + 2 else s.pc := rfl
@[simp] theorem skipIf_stack (s : State) (c : Bool) : (s.skipIf c).stack = s.stack := rfl
@[simp] theorem skipIf_sp (s : State) (c : Bool) : (s.skipIf c).sp = s.sp := rfl
@[simp] theorem skipIf_disp (s : State) (c : Bool) : (s.skipIf c).disp = s.disp := rfl
@[simp] theorem skipIf_kp (s : State) (c : Bool) : (s.skipIf c).kp = s.kp := rfl
@[simp] theorem skipIf_dt (s : State) (c : Bool) : (s.skipIf c).dt = s.dt := rfl
@[simp] theorem skipIf_st (s : State) (c : Bool) : (s.skipIf c).st = s.st := rfl
@[simp] theorem skipIf_fatal (s : State) (c : Bool) : (s.skipIf c).fatal = s.fatal := rfl
@[simp] theorem skipIf_frec (s : State) (c : Bool) : (s.skipIf c).frec = s.frec := rfl
@[simp] theorem skipIf_cfg (s : State) (c : Bool) : (s.skipIf c).cfg = s.cfg := rfl
@[simp] theorem skipIf_inputs (s : State) (c : Bool) : (s.skipIf c).inputs = s.inputs := rfl
@[simp] theorem skipIf_iter (s : State) (c : Bool) : (s.skipIf c).iter = s.iter := rfl
@[simp] theorem skipIf_out (s : State) (c : Bool) : (s.skipIf c).out = s.out := rfl
@[simp] theorem skipIf_started (s : State) (c : Bool) : (s.skipIf c).started = s.started := rfl
@[simp] theorem skipIf_reg (s : State) (c : Bool) (q : Reg) : (s.skipIf c).reg q = s.reg q := rfl
@[simp] theorem skipIf_readByte (s : State) (c : Bool) (adr : Nat) : (s.skipIf c).readByte adr = s.readByte adr := rfl
@[simp] theorem skipIf_pixel (s : State) (c : Bool) (px : Fin 64) (py : Fin 32) : (s.skipIf c).pixel px py = s.pixel px py := rfl

/-! ### `writeByte` -/

@[simp] theorem writeByte_mem (s : State) (a : Nat) (u : Byte) : (s.writeByte a u).mem = Memory.write s.cfg.font s.mem (effAddr s.cfg a) u := rfl
@[simp] theorem writeByte_v (s : State) (a : Nat) (u : Byte) : (s.writeByte a u).v = s.v := rfl
@[simp] theorem writeByte_i (s : State) (a : Nat) (u : Byte) : (s.writeByte a u).i = s.i := rfl
@[simp] theorem writeByte_pc (s : State) (a : Nat) (u : Byte) : (s.writeByte a u).pc = s.pc := rfl
@[simp] theorem writeByte_stack (s : State) (a : Nat) (u : Byte) : (s.writeByte a u).stack = s.stack := rfl
@[simp] theorem writeByte_sp (s : State) (a : Nat) (u : Byte) : (s.writeByte a u).sp = s.sp := rfl
@[simp] theorem writeByte_disp (s : State) (a : Nat) (u : Byte) : (s.writeByte a u).disp = s.disp := rfl
@[simp] theorem writeByte_kp (s : State) (a : Nat) (u : Byte) : (s.writeByte a u).kp = s.kp := rfl
@[simp] theorem writeByte_dt (s : State) (a : Nat) (u : Byte) : (s.writeByte a u).dt = s.dt := rfl
@[simp] theorem writeByte_st (s : State) (a : Nat) (u : Byte) : (s.writeByte a u).st = s.st := rfl
@[simp] theorem writeByte_fatal (s : State) (a : Nat) (u : Byte) : (s.writeByte a u).fatal = s.fatal := rfl
@[simp] theorem writeByte_frec (s : State) (a : Nat) (u : Byte) : (s.writeByte a u).frec = s.frec := rfl
@[simp] theorem writeByte_cfg (s : State) (a : Nat) (u : Byte) : (s.writeByte a u).cfg = s.cfg := rfl
@[simp] theorem writeByte_inputs (s : State) (a : Nat) (u : Byte) : (s.writeByte a u).inputs = s.inputs := rfl
@[simp] theorem writeByte_iter (s : State) (a : Nat) (u : Byte) : (s.writeByte a u).iter = s.iter := rfl
@[simp] theorem writeByte_out (s : State) (a : Nat) (u : Byte) : (s.writeByte a u).out = s.out := rfl
@[simp] theorem writeByte_started (s : State) (a : Nat) (u : Byte) : (s.writeByte a u).started = s.started := rfl
@[simp] theorem writeByte_reg (s : State) (a : Nat) (u : Byte) (q : Reg) : (s.writeByte a u).reg q = s.reg q := rfl
@[simp] theorem writeByte_pixel (s : State) (a : Nat) (u : Byte) (px : Fin 64) (py : Fin 32) : (s.writeByte a u).pixel px py = s.pixel px py := rfl

/-! ### `emit` -/

@[simp] theorem emit_mem (s : State) (e : SinkEvent) : (s.emit e).mem = s.mem := rfl
@[simp] theorem emit_v (s : State) (e : SinkEvent) : (s.emit e).v = s.v := rfl
@[simp] theorem emit_i (s : State) (e : SinkEvent) : (s.emit e).i = s.i := rfl
@[simp] theorem emit_pc (s : State) (e : SinkEvent) : (s.emit e).pc = s.pc := rfl
@[simp] theorem emit_stack (s : State) (e : SinkEvent) : (s.emit e).stack = s.stack := rfl
@[simp] theorem emit_sp (s : State) (e : SinkEvent) : (s.emit e).sp = s.sp := rfl
@[simp] theorem emit_disp (s : State) (e : SinkEvent) : (s.emit e).disp = s.disp := rfl
@[simp] theorem emit_kp (s : State) (e : SinkEvent) : (s.emit e).kp = s.kp := rfl
@[simp] theorem emit_dt (s : State) (e : SinkEvent) : (s.emit e).dt = s.dt := rfl
@[simp] theorem emit_st (s : State) (e : SinkEvent) : (s.emit e).st = s.st := rfl
@[simp] theorem emit_fatal (s : State) (e : SinkEvent) : (s.emit e).fatal = s.fatal := rfl
@[simp] theorem emit_frec (s : State) (e : SinkEvent) : (s.emit e).frec = s.frec := rfl
@[simp] theorem emit_cfg (s : State) (e : SinkEvent) : (s.emit e).cfg = s.cfg := rfl
@[simp] theorem emit_inputs (s : State) (e : SinkEvent) : (s.emit e).inputs = s.inputs := rfl
@[simp] theorem emit_iter (s : State) (e : SinkEvent) : (s.emit e).iter = s.iter := rfl
@[simp] theorem emit_out (s : State) (e : SinkEvent) : (s.emit e).out = s.out ++ [e] := rfl
@[simp] theorem emit_started (s : State) (e : SinkEvent) : (s.emit e).started = s.started := rfl
@[simp] theorem emit_reg (s : State) (e : SinkEvent) (q : Reg) : (s.emit e).reg q = s.reg q := rfl
@[simp] theorem emit_readByte (s : State) (e : SinkEvent) (adr : Nat) : (s.emit e).readByte adr = s.readByte adr := rfl
@[simp] theorem emit_pixel (s : State) (e : SinkEvent) (px : Fin 64) (py : Fin 32) : (s.emit e).pixel px py = s.pixel px py := rfl

/-! ### `clearDisplay` -/

@[simp] theorem clearDisplay_mem (s : State) : (s.clearDisplay).mem = s.mem := rfl
@[simp] theorem clearDisplay_v (s : State) : (s.clearDisplay).v = s.v := rfl
@[simp] theorem clearDisplay_i (s : State) : (s.clearDisplay).i = s.i := rfl
@[simp] theorem clearDisplay_pc (s : State) : (s.clearDisplay).pc = s.pc := rfl
@[simp] theorem clearDisplay_stack (s : State) : (s.clearDisplay).stack = s.stack := rfl
@[simp] theorem clearDisplay_sp (s : State) : (s.clearDisplay).sp = s.sp := rfl
@[simp] theorem clearDisplay_disp (s : State) : (s.clearDisplay).disp = Vector.replicate 32 0 := rfl
@[simp] theorem clearDisplay_kp (s : State) : (s.clearDisplay).kp = s.kp := rfl
@[simp] theorem clearDisplay_dt (s : State) : (s.clearDisplay).dt = s.dt := rfl
@[simp] theorem clearDisplay_st (s : State) : (s.clearDisplay).st = s.st := rfl
@[simp] theorem clearDisplay_fatal (s : State) : (s.clearDisplay).fatal = s.fatal := rfl
@[simp] theorem clearDisplay_frec (s : State) : (s.clearDisplay).frec = s.frec := rfl
@[simp] theorem clearDisplay_cfg (s : State) : (s.clearDisplay).cfg = s.cfg := rfl
@[simp] theorem clearDisplay_inputs (s : State) : (s.clearDisplay).inputs = s.inputs := rfl
@[simp] theorem clearDisplay_iter (s : State) : (s.clearDisplay).iter = s.iter := rfl
@[simp] theorem clearDisplay_out (s : State) : (s.clearDisplay).out = s.out ++ [.clear] := rfl
@[simp] theorem clearDisplay_started (s : State) : (s.clearDisplay).started = s.started := rfl
@[simp] theorem clearDisplay_reg (s : State) (q : Reg) : (s.clearDisplay).reg q = s.reg q := rfl
@[simp] theorem clearDisplay_readByte (s : State) (adr : Nat) : (s.clearDisplay).readByte adr = s.readByte adr := rfl

/-! ### `enterFatal` -/

@[simp] theorem enterFatal_mem (s : State) (r : FaultRecord) : (s.enterFatal r).mem = s.mem := rfl
@[simp] theorem enterFatal_v (s : State) (r : FaultRecord) : (s.enterFatal r).v = s.v := rfl
@[simp] theorem enterFatal_i (s : State) (r : FaultRecord) : (s.enterFatal r).i = s.i := rfl
@[simp] theorem enterFatal_pc (s : State) (r : FaultRecord) : (s.enterFatal r).pc = s.pc := rfl
@[simp] theorem enterFatal_stack (s : State) (r : FaultRecord) : (s.enterFatal r).stack = s.stack := rfl
@[simp] theorem enterFatal_sp (s : State) (r : FaultRecord) : (s.enterFatal r).sp = s.sp := rfl
@[simp] theorem enterFatal_disp (s : State) (r : FaultRecord) : (s.enterFatal r).disp = s.disp := rfl
@[simp] theorem enterFatal_kp (s : State) (r : FaultRecord) : (s.enterFatal r).kp = s.kp := rfl
@[simp] theorem enterFatal_dt (s : State) (r : FaultRecord) : (s.enterFatal r).dt = s.dt := rfl
@[simp] theorem enterFatal_st (s : State) (r : FaultRecord) : (s.enterFatal r).st = s.st := rfl
@[simp] theorem enterFatal_fatal (s : State) (r : FaultRecord) : (s.enterFatal r).fatal = true := rfl
@[simp] theorem enterFatal_frec (s : State) (r : FaultRecord) : (s.enterFatal r).frec = r := rfl
@[simp] theorem enterFatal_cfg (s : State) (r : FaultRecord) : (s.enterFatal r).cfg = s.cfg := rfl
@[simp] theorem enterFatal_inputs (s : State) (r : FaultRecord) : (s.enterFatal r).inputs = s.inputs := rfl
@[simp] theorem enterFatal_iter (s : State) (r : FaultRecord) : (s.enterFatal r).iter = s.iter := rfl
@[simp] theorem enterFatal_out (s : State) (r : FaultRecord) : (s.enterFatal r).out = s.out := rfl
@[simp] theorem enterFatal_started (s : State) (r : FaultRecord) : (s.enterFatal r).started = s.started := rfl
@[simp] theorem enterFatal_reg (s : State) (r : FaultRecord) (q : Reg) : (s.enterFatal r).reg q = s.reg q := rfl
@[simp] theorem enterFatal_readByte (s : State) (r : FaultRecord) (adr : Nat) : (s.enterFatal r).readByte adr = s.readByte adr := rfl
@[simp] theorem enterFatal_pixel (s : State) (r : FaultRecord) (px : Fin 64) (py : Fin 32) : (s.enterFatal r).pixel px py = s.pixel px py := rfl

/-! ### `nextIter` -/

@[simp] theorem nextIter_mem (s : State) : (s.nextIter).mem = s.mem := rfl
@[simp] theorem nextIter_v (s : State) : (s.nextIter).v = s.v := rfl
@[simp] theorem nextIter_i (s : State) : (s.nextIter).i = s.i := rfl
@[simp] theorem nextIter_pc (s : State) : (s.nextIter).pc = s.pc := rfl
@[simp] theorem nextIter_stack (s : State) : (s.nextIter).stack = s.stack := rfl
@[simp] theorem nextIter_sp (s : State) : (s.nextIter).sp = s.sp := rfl
@[simp] theorem nextIter_disp (s : State) : (s.nextIter).disp = s.disp := rfl
@[simp] theorem nextIter_kp (s : State) : (s.nextIter).kp = s.kp := rfl
@[simp] theorem nextIter_dt (s : State) : (s.nextIter).dt = s.dt := rfl
@[simp] theorem nextIter_st (s : State) : (s.nextIter).st = s.st := rfl
@[simp] theorem nextIter_fatal (s : State) : (s.nextIter).fatal = s.fatal := rfl
@[simp] theorem nextIter_frec (s : State) : (s.nextIter).frec = s.frec := rfl
@[simp] theorem nextIter_cfg (s : State) : (s.nextIter).cfg = s.cfg := rfl
@[simp] theorem nextIter_inputs (s : State) : (s.nextIter).inputs = s.inputs.tail := rfl
@[simp] theorem nextIter_iter (s : State) : (s.nextIter).iter = s.iter + 1 := rfl
@[simp] theorem nextIter_out (s : State) : (s.nextIter).out = s.out := rfl
@[simp] theorem nextIter_started (s : State) : (s.nextIter).started = true := rfl
@[simp] theorem nextIter_reg (s : State) (q : Reg) : (s.nextIter).reg q = s.reg q := rfl
@[simp] theorem nextIter_readByte (s : State) (adr : Nat) : (s.nextIter).readByte adr = s.readByte adr := rfl
@[simp] theorem nextIter_pixel (s : State) (px : Fin 64) (py : Fin 32) : (s.nextIter).pixel px py = s.pixel px py := rfl

/-! ### `setFlag` -/

@[simp] theorem setFlag_mem (s : State) (b : Bool) : (s.setFlag b).mem = s.mem := rfl
@[simp] theorem setFlag_i (s : State) (b : Bool) : (s.setFlag b).i = s.i := rfl
@[simp] theorem setFlag_pc (s : State) (b : Bool) : (s.setFlag b).pc = s.pc := rfl
@[simp] theorem setFlag_stack (s : State) (b : Bool) : (s.setFlag b).stack = s.stack := rfl
@[simp] theorem setFlag_sp (s : State) (b : Bool) : (s.setFlag b).sp = s.sp := rfl
@[simp] theorem setFlag_disp (s : State) (b : Bool) : (s.setFlag b).disp = s.disp := rfl
@[simp] theorem setFlag_kp (s : State) (b : Bool) : (s.setFlag b).kp = s.kp := rfl
@[simp] theorem setFlag_dt (s : State) (b : Bool) : (s.setFlag b).dt = s.dt := rfl
@[simp] theorem setFlag_st (s : State) (b : Bool) : (s.setFlag b).st = s.st := rfl
@[simp] theorem setFlag_fatal (s : State) (b : Bool) : (s.setFlag b).fatal = s.fatal := rfl
@[simp] theorem setFlag_frec (s : State) (b : Bool) : (s.setFlag b).frec = s.frec := rfl
@[simp] theorem setFlag_cfg (s : State) (b : Bool) : (s.setFlag b).cfg = s.cfg := rfl
@[simp] theorem setFlag_inputs (s : State) (b : Bool) : (s.setFlag b).inputs = s.inputs := rfl
@[simp] theorem setFlag_iter (s : State) (b : Bool) : (s.setFlag b).iter = s.iter := rfl
@[simp] theorem setFlag_out (s : State) (b : Bool) : (s.setFlag b).out = s.out := rfl
@[simp] theorem setFlag_started (s : State) (b : Bool) : (s.setFlag b).started = s.started := rfl
@[simp] theorem setFlag_readByte (s : State) (b : Bool) (adr : Nat) : (s.setFlag b).readByte adr = s.readByte adr := rfl
@[simp] theorem setFlag_pixel (s : State) (b : Bool) (px : Fin 64) (py : Fin 32) : (s.setFlag b).pixel px py = s.pixel px py := rfl

/-! ### `setRegFlag` -/

@[simp] theorem setRegFlag_mem (s : State) (x : Reg) (u : Byte) (b : Bool) : (s.setRegFlag x u b).mem = s.mem := rfl
@[simp] theorem setRegFlag_i (s : State) (x : Reg) (u : Byte) (b : Bool) : (s.setRegFlag x u b).i = s.i := rfl
@[simp] theorem setRegFlag_pc (s : State) (x : Reg) (u : Byte) (b : Bool) : (s.setRegFlag x u b).pc = s.pc := rfl
@[simp] theorem setRegFlag_stack (s : State) (x : Reg) (u : Byte) (b : Bool) : (s.setRegFlag x u b).stack = s.stack := rfl
@[simp] theorem setRegFlag_sp (s : State) (x : Reg) (u : Byte) (b : Bool) : (s.setRegFlag x u b).sp = s.sp := rfl
@[simp] theorem setRegFlag_disp (s : State) (x : Reg) (u : Byte) (b : Bool) : (s.setRegFlag x u b).disp = s.disp := rfl
@[simp] theorem setRegFlag_kp (s : State) (x : Reg) (u : Byte) (b : Bool) : (s.setRegFlag x u b).kp = s.kp := rfl
@[simp] theorem setRegFlag_dt (s : State) (x : Reg) (u : Byte) (b : Bool) : (s.setRegFlag x u b).dt = s.dt := rfl
@[simp] theorem setRegFlag_st (s : State) (x : Reg) (u : Byte) (b : Bool) : (s.setRegFlag x u b).st = s.st := rfl
@[simp] theorem setRegFlag_fatal (s : State) (x : Reg) (u : Byte) (b : Bool) : (s.setRegFlag x u b).fatal = s.fatal := rfl
@[simp] theorem setRegFlag_frec (s : State) (x : Reg) (u : Byte) (b : Bool) : (s.setRegFlag x u b).frec = s.frec := rfl
@[simp] theorem setRegFlag_cfg (s : State) (x : Reg) (u : Byte) (b : Bool) : (s.setRegFlag x u b).cfg = s.cfg := rfl
@[simp] theorem setRegFlag_inputs (s : State) (x : Reg) (u : Byte) (b : Bool) : (s.setRegFlag x u b).inputs = s.inputs := rfl
@[simp] theorem setRegFlag_iter (s : State) (x : Reg) (u : Byte) (b : Bool) : (s.setRegFlag x u b).iter = s.iter := rfl
@[simp] theorem setRegFlag_out (s : State) (x : Reg) (u : Byte) (b : Bool) : (s.setRegFlag x u b).out = s.out := rfl
@[simp] theorem setRegFlag_started (s : State) (x : Reg) (u : Byte) (b : Bool) : (s.setRegFlag x u b).started = s.started := rfl
@[simp] theorem setRegFlag_readByte (s : State) (x : Reg) (u : Byte) (b : Bool) (adr : Nat) : (s.setRegFlag x u b).readByte adr = s.readByte adr := rfl
@[simp] theorem setRegFlag_pixel (s : State) (x : Reg) (u : Byte) (b : Bool) (px : Fin 64) (py : Fin 32) : (s.setRegFlag x u b).pixel px py = s.pixel px py := rfl

/-! ### `plotPixel` -/

@[simp] theorem plotPixel_mem (s : State) (p : Fin 64 × Fin 32) : (s.plotPixel p).mem = s.mem := rfl
@[simp] theorem plotPixel_i (s : State) (p : Fin 64 × Fin 32) : (s.plotPixel p).i = s.i := rfl
@[simp] theorem plotPixel_pc (s : State) (p : Fin 64 × Fin 32) : (s.plotPixel p).pc = s.pc := rfl
@[simp] theorem plotPixel_stack (s : State) (p : Fin 64 × Fin 32) : (s.plotPixel p).stack = s.stack := rfl
@[simp] theorem plotPixel_sp (s : State) (p : Fin 64 × Fin 32) : (s.plotPixel p).sp = s.sp := rfl
@[simp] theorem plotPixel_disp (s : State) (p : Fin 64 × Fin 32) : (s.plotPixel p).disp = flipPixel s.disp p.1 p.2 := rfl
@[simp] theorem plotPixel_kp (s : State) (p : Fin 64 × Fin 32) : (s.plotPixel p).kp = s.kp := rfl
@[simp] theorem plotPixel_dt (s : State) (p : Fin 64 × Fin 32) : (s.plotPixel p).dt = s.dt := rfl
@[simp] theorem plotPixel_st (s : State) (p : Fin 64 × Fin 32) : (s.plotPixel p).st = s.st := rfl
@[simp] theorem plotPixel_fatal (s : State) (p : Fin 64 × Fin 32) : (s.plotPixel p).fatal = s.fatal := rfl
@[simp] theorem plotPixel_frec (s : State) (p : Fin 64 × Fin 32) : (s.plotPixel p).frec = s.frec := rfl
@[simp] theorem plotPixel_cfg (s : State) (p : Fin 64 × Fin 32) : (s.plotPixel p).cfg = s.cfg := rfl
@[simp] theorem plotPixel_inputs (s : State) (p : Fin 64 × Fin 32) : (s.plotPixel p).inputs = s.inputs := rfl
@[simp] theorem plotPixel_iter (s : State) (p : Fin 64 × Fin 32) : (s.plotPixel p).iter = s.iter := rfl
@[simp] theorem plotPixel_out (s : State) (p : Fin 64 × Fin 32) : (s.plotPixel p).out = s.out ++ [.pixel p.1 p.2 (!s.pixel p.1 p.2)] := rfl
@[simp] theorem plotPixel_started (s : State) (p : Fin 64 × Fin 32) : (s.plotPixel p).started = s.started := rfl
@[simp] theorem plotPixel_readByte (s : State) (p : Fin 64 × Fin 32) (adr : Nat) : (s.plotPixel p).readByte adr = s.readByte adr := rfl

/-! ### The accessors over the update that changes them -/

/-- Reading a register after writing one (10_state.md R11: none is hardwired, none aliases another). -/
@[simp] theorem setReg_reg (s : State) (r : Reg) (u : Byte) (q : Reg) :
    (s.setReg r u).reg q = if q = r then u else s.reg q := by
  simp only [State.reg, State.setReg, Vector.getElem_set, BitVec.toNat_inj, eq_comm]

@[simp] theorem setFlag_reg (s : State) (b : Bool) (q : Reg) :
    (s.setFlag b).reg q = if q = 15 then flagByte b else s.reg q := setReg_reg s vf (flagByte b) q

/-- A result and its flag: VF holds the flag, whatever the destination (R12 (b)). -/
@[simp] theorem setRegFlag_reg (s : State) (x : Reg) (u : Byte) (b : Bool) (q : Reg) :
    (s.setRegFlag x u b).reg q = if q = 15 then flagByte b else if q = x then u else s.reg q := by
  simp only [State.setRegFlag, setFlag_reg, setReg_reg]

end Sys2Proof.Machine
end

