-- ==== Sys2Proof/Laws/Memory.lean ====
section
/-! SUPPORT. The laws of memory: a read after a write, and the canonical form that every memory operation keeps. -/

namespace Sys2Proof.Machine

theorem Memory.read_insert (font : Font) (m : Memory) (a b : Nat) (u : Byte) :
    Memory.read font (m.insert a u) b = if b = a then u else Memory.read font m b := by
  induction m with
  | nil => simp [Memory.insert, Memory.read]
  | cons c m ih =>
    obtain ⟨d, w⟩ := c
    simp only [Memory.insert]
    split
    · simp [Memory.read]
    · split
      · subst d; simp only [Memory.read]; split <;> simp_all
      · simp only [Memory.read, ih]
        split
        · rename_i h; subst h; split <;> simp_all
        · rfl

theorem Memory.read_erase (font : Font) (m : Memory) (a b : Nat) :
    Memory.read font (m.erase a) b = if b = a then unlisted font a else Memory.read font m b := by
  induction m with
  | nil => simp only [Memory.erase, List.filter_nil, Memory.read]; split <;> simp_all
  | cons c m ih =>
    obtain ⟨d, w⟩ := c
    simp only [Memory.erase] at ih ⊢
    by_cases h : d = a
    · subst d; simp only [List.filter_cons, bne_self_eq_false, Bool.false_eq_true, if_false, ih, Memory.read]
      split <;> rfl
    · simp only [List.filter_cons, bne_iff_ne, ne_eq, h, not_false_eq_true, if_true, Memory.read, ih]
      by_cases hb : b = d
      · subst hb; simp [h]
      · simp [hb]

/-- A read after a write gives the value written, and every other byte is left alone. -/
theorem Memory.read_write (font : Font) (m : Memory) (a b : Nat) (u : Byte) (ha : a < memSize) :
    Memory.read font (m.write font a u) b = if b = a then u else Memory.read font m b := by
  simp only [Memory.write, ha, if_true]
  split
  · rename_i h; rw [Memory.read_erase, h]
  · exact Memory.read_insert ..

theorem Memory.wf_erase {font : Font} {m : Memory} (a : Nat) (h : m.wf font) : (m.erase a).wf font :=
  ⟨h.1.filter _, fun c hc => h.2 c (List.mem_filter.1 hc).1⟩

theorem Memory.mem_insert {m : Memory} {a : Nat} {u : Byte} {c : Host.Cell} (h : c ∈ m.insert a u) :
    c = (a, u) ∨ c ∈ m := by
  induction m with
  | nil => simpa [Memory.insert] using h
  | cons d m ih =>
    obtain ⟨b, w⟩ := d
    simp only [Memory.insert] at h
    split at h
    · simpa using h
    · split at h
      · simp at h; tauto
      · rcases List.mem_cons.1 h with h | h
        · simp [h]
        · rcases ih h with h | h <;> simp [h]

theorem Memory.wf_insert {font : Font} {m : Memory} {a : Nat} {u : Byte} (ha : a < memSize)
    (hu : u ≠ unlisted font a) (h : m.wf font) : (m.insert a u).wf font := by
  refine ⟨?_, fun c hc => ?_⟩
  · have hp := h.1
    clear h
    induction m with
    | nil => simp [Memory.insert]
    | cons d m ih =>
      obtain ⟨b, w⟩ := d
      obtain ⟨h1, h2⟩ := List.pairwise_cons.1 hp
      simp only [Memory.insert]
      split
      · rename_i hab
        refine List.pairwise_cons.2 ⟨fun c hc => ?_, hp⟩
        rcases List.mem_cons.1 hc with rfl | hc
        · exact hab
        · exact lt_trans hab (h1 c hc)
      · split
        · subst b; exact List.pairwise_cons.2 ⟨h1, h2⟩
        · refine List.pairwise_cons.2 ⟨fun c hc => ?_, ih h2⟩
          rcases Memory.mem_insert hc with rfl | hc
          · simp only; omega
          · exact h1 c hc
  · rcases Memory.mem_insert hc with rfl | hc
    · exact ⟨ha, hu⟩
    · exact h.2 c hc

/-- Every write keeps the canonical form. -/
theorem Memory.wf_write {font : Font} {m : Memory} (a : Nat) (u : Byte) (h : m.wf font) :
    (m.write font a u).wf font := by
  simp only [Memory.write]
  split
  · rename_i ha
    split
    · exact Memory.wf_erase a h
    · rename_i hu; exact Memory.wf_insert ha hu h
  · exact h

/-- An access in bounds reaches a byte of `MEM` (20_memory.md R43, R44). -/
theorem effAddr_lt {cfg : Config} {base : Word} {count k : Nat} (h : InBounds cfg base count) (hk : k < count) :
    effAddr cfg (base.toNat + k) < memSize := by
  unfold effAddr
  cases hp : cfg.oobPolicy with
  | fault =>
    simp only [memSize]
    rcases h with h | h | h
    · simp [hp] at h
    · omega
    · omega
  | wrap => exact Nat.mod_lt _ (by decide)

/-- The addresses an instruction uses reach different bytes (at most 16 addresses from a base). -/
theorem effAddr_inj (cfg : Config) {base j k : Nat} (hj : j < 4096) (hk : k < 4096)
    (h : effAddr cfg (base + j) = effAddr cfg (base + k)) : j = k := by
  unfold effAddr at h
  cases hp : cfg.oobPolicy <;> simp only [hp, memSize] at h <;> omega

/-- The check of R126 answers none exactly when all addresses are in bounds, else the lowest one that is not. -/
theorem firstBad_eq (cfg : Config) (base : Word) (count : Nat) :
    (InBounds cfg base count ∧ firstBad cfg base count = none) ∨
      (¬InBounds cfg base count ∧ firstBad cfg base count = some (lowestBad base)) := by
  unfold InBounds firstBad lowestBad
  cases cfg.oobPolicy with
  | wrap => simp
  | fault =>
    by_cases h : count ≠ 0 ∧ base.toNat + count - 1 > 0xFFF
    · right; simp [h]; omega
    · left; simp only [h, if_false, and_true]; simp; omega

theorem firstBad_none {cfg : Config} {base : Word} {count : Nat} (h : InBounds cfg base count) :
    firstBad cfg base count = none :=
  (firstBad_eq cfg base count).elim And.right fun h' => absurd h h'.1

theorem firstBad_some {cfg : Config} {base : Word} {count : Nat} (h : ¬InBounds cfg base count) :
    firstBad cfg base count = some (lowestBad base) :=
  (firstBad_eq cfg base count).elim (fun h' => absurd h'.1 h) And.right

/-- `MemRead` after `MemWrite` (R43, R49 (c)), at addresses that reach a byte of `MEM`. -/
theorem readByte_writeByte (s : State) (a b : Nat) (u : Byte) (ha : effAddr s.cfg a < memSize) :
    (s.writeByte a u).readByte b = if effAddr s.cfg b = effAddr s.cfg a then u else s.readByte b := by
  simp only [State.readByte, writeByte_mem, writeByte_cfg]
  exact Memory.read_write _ _ _ _ _ ha

/-- A write keeps the canonical form. -/
theorem writeByte_canonical {s : State} (a : Nat) (u : Byte) (h : s.MemCanonical) : (s.writeByte a u).MemCanonical :=
  Memory.wf_write _ _ h

end Sys2Proof.Machine
end

