-- ==== Sys2Proof/Laws/Ops.lean ====
section
/-! SUPPORT. What each shared operation can do, said once: the byte loops, the register loops, the stack, the drawing of a
sprite, the fault, the environment's gap. -/

namespace Sys2Proof.Machine

/-! ### Loops over memory -/

/-- `writeBytes` changes MEM alone. -/
theorem writeBytes_eq (s : State) (a : Nat) (us : List Byte) :
    s.writeBytes a us = { s with mem := (s.writeBytes a us).mem } := by
  induction us generalizing s a with
  | nil => rfl
  | cons u us ih => simp only [State.writeBytes]; rw [ih]; rfl

theorem writeBytes_canonical {s : State} (a : Nat) (us : List Byte) (h : s.MemCanonical) :
    (s.writeBytes a us).MemCanonical := by
  induction us generalizing s a with
  | nil => exact h
  | cons u us ih => exact ih (a + 1) (writeByte_canonical a u h)

/-- The bytes that `writeBytes` leaves at its addresses, and every other byte left alone. -/
theorem writeBytes_readByte (s : State) (a : Nat) (us : List Byte) (hlen : us.length ≤ 4096)
    (hin : ∀ k, k < us.length → effAddr s.cfg (a + k) < memSize) :
    (∀ k (hk : k < us.length), (s.writeBytes a us).readByte (a + k) = us[k]) ∧
      ∀ b, (∀ k, k < us.length → effAddr s.cfg b ≠ effAddr s.cfg (a + k)) →
        (s.writeBytes a us).readByte b = s.readByte b := by
  induction us generalizing s a with
  | nil => simp [State.writeBytes]
  | cons u us ih =>
    have h0 : effAddr s.cfg a < memSize := hin 0 (by simp)
    obtain ⟨ih1, ih2⟩ := ih (s.writeByte a u) (a + 1) (by simp at hlen; omega) (fun k hk => by
      simpa [Nat.add_assoc, Nat.add_comm 1] using hin (k + 1) (by simpa using hk))
    refine ⟨fun k hk => ?_, fun b hb => ?_⟩
    · cases k with
      | zero =>
        simp only [State.writeBytes, Nat.add_zero, List.getElem_cons_zero]
        rw [ih2 a fun k hk he => ?_, readByte_writeByte _ _ _ _ h0, if_pos rfl]
        have := effAddr_inj s.cfg (base := a) (j := 0) (k := k + 1) (by omega) (by simp at hlen; omega)
          (by simpa [Nat.add_assoc, Nat.add_comm 1] using he)
        omega
      | succ k =>
        have := ih1 k (by simpa using hk)
        simpa [State.writeBytes, Nat.add_assoc, Nat.add_comm 1] using this
    · simp only [State.writeBytes]
      rw [ih2 b fun k hk => by
        simpa [Nat.add_assoc, Nat.add_comm 1] using hb (k + 1) (by simpa using hk), readByte_writeByte _ _ _ _ h0]
      rw [if_neg (by simpa using hb 0 (by simp))]

/-- `storeRegs` changes MEM alone (R124). -/
theorem storeRegs_eq (s : State) (base n : Nat) : s.storeRegs base n = { s with mem := (s.storeRegs base n).mem } := by
  induction n with
  | zero => rfl
  | succ n ih => simp only [State.storeRegs]; rw [ih]; rfl

theorem storeRegs_reg (s : State) (base n : Nat) (r : Reg) : (s.storeRegs base n).reg r = s.reg r := by
  rw [storeRegs_eq]; rfl

theorem storeRegs_cfg (s : State) (base n : Nat) : (s.storeRegs base n).cfg = s.cfg := by
  rw [storeRegs_eq]

theorem storeRegs_canonical {s : State} (base n : Nat) (h : s.MemCanonical) : (s.storeRegs base n).MemCanonical := by
  induction n with
  | zero => exact h
  | succ n ih => exact writeByte_canonical _ _ ih

/-- The bytes `storeRegs` leaves (20_memory.md R53 (b): `V[k]` at `base + k`), and every other byte left alone. -/
theorem storeRegs_readByte (s : State) (base n : Nat) (hn : n ≤ 16)
    (hin : ∀ k, k < n → effAddr s.cfg (base + k) < memSize) :
    (∀ k, k < n → (s.storeRegs base n).readByte (base + k) = s.reg (BitVec.ofNat 4 k)) ∧
      ∀ b, (∀ k, k < n → effAddr s.cfg b ≠ effAddr s.cfg (base + k)) →
        (s.storeRegs base n).readByte b = s.readByte b := by
  induction n with
  | zero => simp [State.storeRegs]
  | succ n ih =>
    obtain ⟨ih1, ih2⟩ := ih (by omega) fun k hk => hin k (by omega)
    have hw : effAddr (s.storeRegs base n).cfg (base + n) < memSize := by
      rw [storeRegs_cfg]; exact hin n (by omega)
    refine ⟨fun k hk => ?_, fun b hb => ?_⟩
    · simp only [State.storeRegs, readByte_writeByte _ _ _ _ hw, storeRegs_cfg, storeRegs_reg]
      split
      · rename_i h; rw [effAddr_inj s.cfg (by omega) (by omega) h]
      · rename_i h
        exact ih1 k (Nat.lt_of_le_of_ne (by omega) fun he => h (by rw [he]))
    · simp only [State.storeRegs, readByte_writeByte _ _ _ _ hw, storeRegs_cfg]
      rw [if_neg (hb n (by omega)), ih2 b fun k hk => hb k (by omega)]

/-- `loadRegs` changes V alone (R125). -/
theorem loadRegs_eq (s : State) (base n : Nat) : s.loadRegs base n = { s with v := (s.loadRegs base n).v } := by
  induction n with
  | zero => rfl
  | succ n ih => simp only [State.loadRegs]; rw [ih]; rfl

theorem loadRegs_readByte (s : State) (base n a : Nat) : (s.loadRegs base n).readByte a = s.readByte a := by
  rw [loadRegs_eq]; rfl

/-- The registers `loadRegs` leaves (R53 (b)): the first `n` from memory, the others as before. -/
theorem loadRegs_reg (s : State) (base n : Nat) (hn : n ≤ 16) (r : Reg) :
    (s.loadRegs base n).reg r = if r.toNat < n then s.readByte (base + r.toNat) else s.reg r := by
  induction n with
  | zero => simp [State.loadRegs]
  | succ n ih =>
    have hr : r = BitVec.ofNat 4 n ↔ r.toNat = n := by
      rw [← BitVec.toNat_inj, BitVec.toNat_ofNat, Nat.mod_eq_of_lt (by omega)]
    simp only [State.loadRegs, setReg_reg, hr, loadRegs_readByte, ih (by omega)]
    by_cases h : r.toNat = n
    · simp [h]
    · simp only [h, if_false]
      by_cases h' : r.toNat < n
      · simp [h', Nat.lt_succ_of_lt h']
      · rw [if_neg h', if_neg (by omega)]

/-- The update of `I` after a block transfer changes `I` alone (R124, R125). -/
theorem bumpI_eq (s : State) (n : Nat) :
    s.bumpI n = s.setI (if s.cfg.qInci then s.i + BitVec.ofNat 16 n else s.i) := by
  unfold State.bumpI; split <;> rfl

/-! ### The stack -/

/-- What a push can do (R16, R17): with a free slot it fills slot SP and counts it. -/
theorem push_of_lt (s : State) (a : Word) (h : s.sp.val < 16) :
    s.push a = some { s with stack := s.stack.set s.sp.val a h, sp := ⟨s.sp.val + 1, by omega⟩ } := dif_pos h

/-- A push with the stack full (R153). -/
theorem push_of_full (s : State) (a : Word) (h : s.sp.val = 16) : s.push a = none := dif_neg (by omega)

/-- What a pop can do (R16, R17): with a live entry it answers the last one and uncounts it; the slots stay. -/
theorem pop_of_pos (s : State) (h : 0 < s.sp.val) :
    s.pop = some (s.stack[s.sp.val - 1]'(by omega), { s with sp := ⟨s.sp.val - 1, by omega⟩ }) := dif_pos h

/-- A pop with the stack empty (R154). -/
theorem pop_of_empty (s : State) (h : s.sp.val = 0) : s.pop = none := dif_neg (by omega)

/-! ### Faults -/

/-- Raising always gives a next state: FATAL and FREC written, all else as before (R151). -/
theorem raise_eq (cause : Cause) (op info : Word) (s : State) :
    raise cause op info s = .next (faulted s cause op info) := rfl

/-! ### Drawing -/

/-- Drawing changes V, DISP and the event stream alone (R132). -/
theorem blit_eq (s : State) (ps : List (Fin 64 × Fin 32)) :
    s.blit ps = { s with v := (s.blit ps).v, disp := (s.blit ps).disp, out := (s.blit ps).out } := by
  have key : ∀ (qs : List (Fin 64 × Fin 32)) (t : State), qs.foldl State.plotPixel t =
      { t with v := (qs.foldl State.plotPixel t).v, disp := (qs.foldl State.plotPixel t).disp,
               out := (qs.foldl State.plotPixel t).out } := by
    intro qs
    induction qs with
    | nil => intro t; rfl
    | cons q qs ih => intro t; rw [List.foldl_cons, ih]; rfl
  unfold State.blit
  rw [key]; rfl

/-- Inverting one pixel inverts that pixel and no other (R132). -/
theorem flipPixel_getLsbD (d : Vector (BitVec 64) 32) (p q : Fin 64 × Fin 32) :
    (flipPixel d p.1 p.2)[q.2.val].getLsbD q.1.val =
      if q = p then !d[p.2.val].getLsbD p.1.val else d[q.2.val].getLsbD q.1.val := by
  obtain ⟨px, py⟩ := p
  obtain ⟨qx, qy⟩ := q
  simp only [flipPixel, Vector.getElem_set, Prod.mk.injEq, Fin.ext_iff]
  by_cases hy : py.val = qy.val
  · have : py = qy := Fin.ext hy
    subst this
    simp only [if_true, and_true, BitVec.getLsbD_xor, BitVec.getLsbD_twoPow]
    by_cases hx : qx.val = px.val
    · simp [hx]
    · simp [hx, Ne.symm hx]
  · simp [hy, Ne.symm hy]

theorem plotPixel_pixel (s : State) (p q : Fin 64 × Fin 32) :
    (s.plotPixel p).pixel q.1 q.2 = if q = p then !s.pixel p.1 p.2 else s.pixel q.1 q.2 :=
  flipPixel_getLsbD s.disp p q

theorem plotPixel_reg (s : State) (p : Fin 64 × Fin 32) (r : Reg) :
    (s.plotPixel p).reg r = if r = 15 ∧ s.pixel p.1 p.2 then 1 else s.reg r := by
  have h : (s.plotPixel p).reg r = (if s.pixel p.1 p.2 then s.setReg vf 1 else s).reg r := by
    unfold State.plotPixel State.emit State.setReg State.reg
    split <;> rfl
  rw [h]
  split
  · rename_i hp; simp only [setReg_reg, hp, and_true]; rfl
  · rename_i hp; simp only [hp, and_false, if_false, Bool.false_eq_true]

/-! ### The environment -/

/-- The gap after a cycle: KP, DT and ST as the environment writes them unless FATAL, the input used up, and nothing else
(R159, R160, R161, 44_keypad_timers.md R146). -/
theorem gap_eq (s : State) (e : LoopInput) :
    s.gap e = if s.fatal then s.nextIter
      else { s with kp := e.keys.getD s.kp
                    dt := if e.tick then countDown s.dt else s.dt
                    st := if e.tick then countDown s.st else s.st }.nextIter := by
  unfold State.gap State.tickIf State.keysIf
  cases h : s.fatal <;> simp [h]

end Sys2Proof.Machine
end

