-- ==== Sys2Proof/Laws/Display.lean ====
section
/-! SUPPORT. What drawing a sprite does: which pixels its rows name, each once, and what inverting them in order leaves. -/

namespace Sys2Proof.Machine

/-- The pixels of one row byte: the set bits from bit 7 down, as far as they lie left of column 64 (R132, R135). -/
theorem mem_rowPixels (x0 : Nat) (y : Fin 32) (b : Byte) (p : Fin 64 × Fin 32) :
    p ∈ rowPixels x0 y b ↔ p.2 = y ∧ ∃ c, c < 8 ∧ p.1.val = x0 + c ∧ b.getLsbD (7 - c) = true := by
  unfold rowPixels
  simp only [List.mem_filterMap, List.mem_range]
  constructor
  · rintro ⟨c, hc, h⟩
    split at h
    · split at h
      · cases h; exact ⟨rfl, c, hc, rfl, by assumption⟩
      · cases h
    · cases h
  · rintro ⟨rfl, c, hc, h1, h2⟩
    refine ⟨c, hc, ?_⟩
    rw [dif_pos (by omega), if_pos h2]
    congr 1; ext <;> simp [h1]

/-- The pixels of the rows: those of R133. -/
theorem mem_spritePixels (x0 y : Nat) (rows : List Byte) (p : Fin 64 × Fin 32) :
    p ∈ spritePixels x0 y rows ↔
      ∃ r c, ∃ h : r < rows.length, c < 8 ∧ p.1.val = x0 + c ∧ p.2.val = y + r ∧ rows[r].getLsbD (7 - c) = true := by
  induction rows generalizing y with
  | nil => simp [spritePixels]
  | cons b bs ih =>
    simp only [spritePixels]
    split
    · rename_i hy
      rw [List.mem_append, mem_rowPixels, ih]
      constructor
      · rintro (⟨h1, c, h2, h3, h4⟩ | ⟨r, c, h, h1, h2, h3, h4⟩)
        · exact ⟨0, c, by simp, h2, h3, by rw [h1]; rfl, by simpa using h4⟩
        · exact ⟨r+1, c, by simpa using h, h1, h2, by omega, by simpa using h4⟩
      · rintro ⟨r, c, h, h1, h2, h3, h4⟩
        cases r with
        | zero => exact Or.inl ⟨Fin.ext h3, c, h1, h2, by simpa using h4⟩
        | succ r => exact Or.inr ⟨r, c, by simpa using h, h1, h2, by omega, by simpa using h4⟩
    · constructor
      · intro h; cases h
      · rintro ⟨r, c, h, h1, h2, h3, h4⟩; have := p.2.isLt; omega

theorem nodup_rowPixels (x0 : Nat) (y : Fin 32) (b : Byte) : (rowPixels x0 y b).Nodup := by
  unfold rowPixels
  refine List.Nodup.filterMap ?_ List.nodup_range
  intro a a' p h1 h2
  simp only [Option.mem_def] at h1 h2
  split at h1 <;> try cases h1
  split at h1 <;> try cases h1
  split at h2 <;> try cases h2
  split at h2 <;> try cases h2
  simp at h2; omega

theorem nodup_spritePixels (x0 y : Nat) (rows : List Byte) : (spritePixels x0 y rows).Nodup := by
  induction rows generalizing y with
  | nil => simp [spritePixels]
  | cons b bs ih =>
    simp only [spritePixels]
    split
    · rw [List.nodup_append]
      refine ⟨nodup_rowPixels .., ih _, ?_⟩
      rintro p hp q hq rfl
      rw [mem_rowPixels] at hp; rw [mem_spritePixels] at hq
      obtain ⟨r, c, _, _, _, h, _⟩ := hq
      rw [hp.1] at h; simp at h; omega
    · exact List.nodup_nil

/-- Inverting distinct pixels in order: each is inverted once, VF is 1 where one of them was on before, and one event is
emitted for each with its new value (R132, R134, R136). -/
theorem fold_plot (ps : List (Fin 64 × Fin 32)) (hn : ps.Nodup) (s : State) :
    (∀ q : Fin 64 × Fin 32, (ps.foldl State.plotPixel s).pixel q.1 q.2 =
      if q ∈ ps then !s.pixel q.1 q.2 else s.pixel q.1 q.2) ∧
    (∀ r, (ps.foldl State.plotPixel s).reg r = if r = 15 ∧ ∃ p ∈ ps, s.pixel p.1 p.2 then 1 else s.reg r) ∧
    (ps.foldl State.plotPixel s).out = s.out ++ ps.map (fun p => .pixel p.1 p.2 (!s.pixel p.1 p.2)) := by
  induction ps generalizing s with
  | nil => simp
  | cons p ps ih =>
    obtain ⟨hp, hn⟩ := List.nodup_cons.1 hn
    obtain ⟨i1, i2, i3⟩ := ih hn (s.plotPixel p)
    simp only [List.foldl_cons]
    refine ⟨fun q => ?_, fun r => ?_, ?_⟩
    · rw [i1, plotPixel_pixel]
      by_cases h : q = p
      · subst h; simp [hp]
      · simp [h]
    · rw [i2]
      have e : (∃ q ∈ ps, (s.plotPixel p).pixel q.1 q.2 = true) ↔ ∃ q ∈ ps, s.pixel q.1 q.2 = true := by
        refine exists_congr fun q => and_congr_right fun hq => ?_
        rw [plotPixel_pixel, if_neg (fun (e : q = p) => hp (e ▸ hq))]
      simp only [e, plotPixel_reg]
      by_cases hr : r = 15
      · simp only [hr, true_and, List.mem_cons, exists_eq_or_imp]
        by_cases h1 : s.pixel p.1 p.2 = true <;> by_cases h2 : ∃ q ∈ ps, s.pixel q.1 q.2 = true <;>
          simp only [h1, h2, or_true, or_false, if_true, if_false, Bool.false_eq_true]
      · simp only [hr, false_and, if_false]
    · rw [i3, plotPixel_out]
      simp only [List.map_cons, List.append_assoc, List.singleton_append, List.append_cancel_left_eq,
        List.cons.injEq, true_and]
      refine List.map_congr_left fun q hq => ?_
      rw [plotPixel_pixel, if_neg (fun (e : q = p) => hp (e ▸ hq))]

/-- The pixels DXYN inverts are the mask of R133. -/
theorem toggles_mem (s : State) (x y : Reg) (n : Nibble) (px : Fin 64) (py : Fin 32) :
    (px, py) ∈ spritePixels ((s.reg x).toNat % 64) ((s.reg y).toNat % 32) (s.spriteRows n) ↔ Toggles s x y n px py := by
  rw [mem_spritePixels]
  unfold Toggles State.spriteRows
  constructor
  · rintro ⟨r, c, h, h1, h2, h3, h4⟩; exact ⟨r, c, by simpa using h, h1, h2, h3, by simpa using h4⟩
  · rintro ⟨r, c, h, h1, h2, h3, h4⟩; exact ⟨r, c, by simpa using h, h1, h2, h3, by simpa using h4⟩

end Sys2Proof.Machine
end

