-- ==== Sys2Proof/Laws/Encoding.lean ====
section
/-! SUPPORT. The formats of R61 as numbers, and the fields of a word built in a format. -/

namespace Sys2Proof

theorem append_toNat {m n : Nat} (a : BitVec m) (b : BitVec n) : (a ++ b).toNat = a.toNat * 2 ^ n + b.toNat := by
  rw [BitVec.toNat_append, ← Nat.shiftLeft_add_eq_or_of_lt b.isLt, Nat.shiftLeft_eq]

theorem wordOfBytes_toNat (hi lo : Byte) : (wordOfBytes hi lo).toNat = hi.toNat * 256 + lo.toNat := append_toNat hi lo

theorem formatNNN_toNat (op : BitVec 4) (nnn : Addr12) : (formatNNN op nnn).toNat = op.toNat * 4096 + nnn.toNat :=
  append_toNat op nnn

theorem formatXNN_toNat (op : BitVec 4) (x : Reg) (nn : Byte) :
    (formatXNN op x nn).toNat = op.toNat * 4096 + x.toNat * 256 + nn.toNat := by
  have h := append_toNat (op ++ x) nn
  rw [append_toNat op x] at h
  exact h.trans (by omega)

theorem formatXYN_toNat (op : BitVec 4) (x y : Reg) (n : Nibble) :
    (formatXYN op x y n).toNat = op.toNat * 4096 + x.toNat * 256 + y.toNat * 16 + n.toNat := by
  have h := append_toNat (op ++ x) (y ++ n)
  rw [append_toNat op x, append_toNat y n] at h
  exact h.trans (by omega)

theorem fieldOp_toNat (w : Word) : (fieldOp w).toNat = w.toNat / 4096 := by
  have := w.isLt
  simp only [fieldOp, BitVec.extractLsb'_toNat, Nat.shiftRight_eq_div_pow]; omega

theorem fieldX_toNat (w : Word) : (fieldX w).toNat = w.toNat / 256 % 16 := by
  simp [fieldX, BitVec.extractLsb'_toNat, Nat.shiftRight_eq_div_pow]

theorem fieldY_toNat (w : Word) : (fieldY w).toNat = w.toNat / 16 % 16 := by
  simp [fieldY, BitVec.extractLsb'_toNat, Nat.shiftRight_eq_div_pow]

theorem fieldN_toNat (w : Word) : (fieldN w).toNat = w.toNat % 16 := by
  simp [fieldN, BitVec.extractLsb'_toNat]

theorem fieldNN_toNat (w : Word) : (fieldNN w).toNat = w.toNat % 256 := by
  simp [fieldNN, BitVec.extractLsb'_toNat]

theorem fieldNNN_toNat (w : Word) : (fieldNNN w).toNat = w.toNat % 4096 := by
  simp [fieldNNN, BitVec.extractLsb'_toNat]

theorem fields_formatNNN (op : BitVec 4) (nnn : Addr12) :
    fieldOp (formatNNN op nnn) = op ∧ fieldNNN (formatNNN op nnn) = nnn := by
  have h := formatNNN_toNat op nnn
  have := nnn.isLt
  have := op.isLt
  constructor <;> apply BitVec.eq_of_toNat_eq
  · rw [fieldOp_toNat]; omega
  · rw [fieldNNN_toNat]; omega

theorem fields_formatXNN (op : BitVec 4) (x : Reg) (nn : Byte) :
    fieldOp (formatXNN op x nn) = op ∧ fieldX (formatXNN op x nn) = x ∧ fieldNN (formatXNN op x nn) = nn := by
  have h := formatXNN_toNat op x nn
  have := nn.isLt
  have := x.isLt
  have := op.isLt
  refine ⟨?_, ?_, ?_⟩ <;> apply BitVec.eq_of_toNat_eq
  · rw [fieldOp_toNat]; omega
  · rw [fieldX_toNat]; omega
  · rw [fieldNN_toNat]; omega

theorem fields_formatXYN (op : BitVec 4) (x y : Reg) (n : Nibble) :
    fieldOp (formatXYN op x y n) = op ∧ fieldX (formatXYN op x y n) = x ∧
      fieldY (formatXYN op x y n) = y ∧ fieldN (formatXYN op x y n) = n := by
  have h := formatXYN_toNat op x y n
  have := n.isLt
  have := y.isLt
  have := x.isLt
  have := op.isLt
  refine ⟨?_, ?_, ?_, ?_⟩ <;> apply BitVec.eq_of_toNat_eq
  · rw [fieldOp_toNat]; omega
  · rw [fieldX_toNat]; omega
  · rw [fieldY_toNat]; omega
  · rw [fieldN_toNat]; omega

/-- A word is put together again from its fields. -/
theorem formatNNN_fields (w : Word) : formatNNN (fieldOp w) (fieldNNN w) = w := by
  apply BitVec.eq_of_toNat_eq
  rw [formatNNN_toNat, fieldOp_toNat, fieldNNN_toNat]; omega

theorem formatXNN_fields (w : Word) : formatXNN (fieldOp w) (fieldX w) (fieldNN w) = w := by
  apply BitVec.eq_of_toNat_eq
  rw [formatXNN_toNat, fieldOp_toNat, fieldX_toNat, fieldNN_toNat]; omega

theorem formatXYN_fields (w : Word) : formatXYN (fieldOp w) (fieldX w) (fieldY w) (fieldN w) = w := by
  apply BitVec.eq_of_toNat_eq
  rw [formatXYN_toNat, fieldOp_toNat, fieldX_toNat, fieldY_toNat, fieldN_toNat]; omega

end Sys2Proof
end

