-- ==== Sys2Proof/Laws/Exec.lean ====
section
/-! SUPPORT. What running an instruction can do, said once for all instructions; what a cycle and a step can do. -/

namespace Sys2Proof.Machine

/-- Running an instruction gives a next state, in one of two ways. Either it raises the cause that is its own, and FATAL and
FREC are all that changes; or KP, FATAL, FREC, the configuration and the model's own fields stay. -/
theorem exec_cases (i : Instr) (s : State) :
    (∃ c info, possibleCause i = some c ∧ exec i s = .next (faulted s c (encode i) info)) ∨
      ∃ t, exec i s = .next t ∧ t.kp = s.kp ∧ t.fatal = s.fatal ∧ t.frec = s.frec ∧ t.cfg = s.cfg ∧
        t.inputs = s.inputs ∧ t.iter = s.iter ∧ t.started = s.started := by
  cases i
  case ret =>
    by_cases h : 0 < s.sp.val
    · simp only [exec, execRet, pop_of_pos s h]
      refine Or.inr ⟨_, rfl, ?_⟩
      exact ⟨rfl, rfl, rfl, rfl, rfl, rfl, rfl⟩
    · exact Or.inl ⟨_, _, rfl, by simp only [exec, execRet, pop_of_empty s (by omega)]; rfl⟩
  case call nnn =>
    by_cases h : s.sp.val < 16
    · simp only [exec, execCall, push_of_lt s _ h]
      refine Or.inr ⟨_, rfl, ?_⟩
      exact ⟨rfl, rfl, rfl, rfl, rfl, rfl, rfl⟩
    · exact Or.inl ⟨_, _, rfl, by simp only [exec, execCall, push_of_full s _ (by omega)]; rfl⟩
  case drw x y n =>
    simp only [exec, execDrw]
    split
    · exact Or.inl ⟨_, _, rfl, rfl⟩
    · refine Or.inr ⟨_, rfl, ?_⟩
      rw [blit_eq]
      exact ⟨rfl, rfl, rfl, rfl, rfl, rfl, rfl⟩
  case ldB x =>
    simp only [exec, execLdB]
    split
    · exact Or.inl ⟨_, _, rfl, rfl⟩
    · refine Or.inr ⟨_, rfl, ?_⟩
      rw [writeBytes_eq]
      exact ⟨rfl, rfl, rfl, rfl, rfl, rfl, rfl⟩
  case ldMemVx x =>
    simp only [exec, execLdMemVx]
    split
    · exact Or.inl ⟨_, _, rfl, rfl⟩
    · refine Or.inr ⟨_, rfl, ?_⟩
      rw [bumpI_eq, storeRegs_eq]
      exact ⟨rfl, rfl, rfl, rfl, rfl, rfl, rfl⟩
  case ldVxMem x =>
    simp only [exec, execLdVxMem]
    split
    · exact Or.inl ⟨_, _, rfl, rfl⟩
    · refine Or.inr ⟨_, rfl, ?_⟩
      rw [bumpI_eq, loadRegs_eq]
      exact ⟨rfl, rfl, rfl, rfl, rfl, rfl, rfl⟩
  case skp x =>
    simp only [exec, execSkp]
    split
    · exact Or.inl ⟨_, _, rfl, rfl⟩
    · refine Or.inr ⟨_, rfl, ?_⟩
      exact ⟨rfl, rfl, rfl, rfl, rfl, rfl, rfl⟩
  case sknp x =>
    simp only [exec, execSknp]
    split
    · exact Or.inl ⟨_, _, rfl, rfl⟩
    · refine Or.inr ⟨_, rfl, ?_⟩
      exact ⟨rfl, rfl, rfl, rfl, rfl, rfl, rfl⟩
  case ldVxK x =>
    simp only [exec, execLdVxK]
    split <;> exact Or.inr ⟨_, rfl, ⟨rfl, rfl, rfl, rfl, rfl, rfl, rfl⟩⟩
  all_goals exact Or.inr ⟨_, rfl, rfl, rfl, rfl, rfl, rfl, rfl, rfl⟩

/-- Running an instruction always gives a next state. -/
theorem exec_next (i : Instr) (s : State) : ∃ t, exec i s = .next t := by
  rcases exec_cases i s with ⟨_, _, _, h⟩ | ⟨t, h, _⟩
  · exact ⟨_, h⟩
  · exact ⟨t, h⟩

/-- A step while running is the state a cycle gives, followed by the gap (R80, R173). -/
theorem step_of_cycle {s t : State} (hr : s.fatal = false) (h : cycle s = .next t) :
    step s = .next (t.gap s.input) := by
  unfold step iteration
  rw [if_neg (by rw [hr]; decide), h]

/-- What a cycle can do while running: the fetch fails and FATAL is entered with nothing else changed, or the fetched word's
instruction runs with `PC` advanced (R80). -/
theorem cycle_cases {s : State} (hr : s.fatal = false) :
    (∃ e, s.fetch = .error e ∧
        cycle s = .next (s.enterFatal { cause := .memoryBounds, addr := s.pc, op := 0, info := e })) ∨
      ∃ w, s.fetch = .ok w ∧ cycle s = exec (decodeWord w) s.advance := by
  unfold cycle
  rw [if_neg (by rw [hr]; decide)]
  cases h : s.fetch with
  | error e => exact Or.inl ⟨e, rfl, rfl⟩
  | ok w => exact Or.inr ⟨w, rfl, rfl⟩

/-- What a step can do: nothing in FATAL; otherwise a cycle, which is one of the two of `cycle_cases`, and the gap. -/
theorem step_cases {s t : State} (h : step s = .next t) :
    (s.fatal = true ∧ t = s) ∨
      (s.fatal = false ∧ ∃ u, cycle s = .next u ∧ t = u.gap s.input) := by
  cases hf : s.fatal with
  | true =>
    refine Or.inl ⟨rfl, ?_⟩
    simp only [step, iteration, hf, if_true] at h
    exact (Host.Outcome.next.inj h).symm
  | false =>
    refine Or.inr ⟨rfl, ?_⟩
    rcases cycle_cases hf with ⟨e, _, hc⟩ | ⟨w, _, hc⟩
    · rw [step_of_cycle hf hc] at h
      exact ⟨_, hc, (Host.Outcome.next.inj h).symm⟩
    · obtain ⟨u, hu⟩ := exec_next (decodeWord w) s.advance
      rw [hu] at hc
      rw [step_of_cycle hf hc] at h
      exact ⟨_, hc, (Host.Outcome.next.inj h).symm⟩

/-- A run of `step` alone is a run under the schedule of the inputs its own states hold (R161 (c)). -/
theorem runsUnder_of_steps {σ : Nat → State} (h : ∀ k, step (σ k) = .next (σ (k + 1))) :
    RunsUnder (fun k => (σ k).input) σ := fun k => ⟨(σ k).inputs, rfl, h k⟩

end Sys2Proof.Machine
end

