-- ==== Sys2Proof/Laws/Frames.lean ====
section
/-! SUPPORT. The frame of each shared write, the word of each format, and the small facts about a cycle's operations. -/

namespace Sys2Proof.Machine

/-! ### Frames -/

theorem frame_refl (s : State) : Frame s s [] [] := by constructor <;> simp

theorem frame_setReg (s : State) (x : Reg) (u : Byte) : Frame s (s.setReg x u) [x] [] := by
  constructor <;> simp
  intro r h h'
  exact absurd h' h

theorem frame_setFlag (s : State) (b : Bool) : Frame s (s.setFlag b) [15] [] := frame_setReg s vf _

theorem frame_setRegFlag (s : State) (x : Reg) (u : Byte) (b : Bool) : Frame s (s.setRegFlag x u b) [x, 15] [] := by
  constructor <;> simp
  intro r h1 h2
  rw [if_neg h2, if_neg h1]

theorem frame_setPc (s : State) (a : Word) : Frame s (s.setPc a) [] [.pc] := by constructor <;> simp

theorem frame_skipIf (s : State) (b : Bool) : Frame s (s.skipIf b) [] [.pc] := frame_setPc _ _

theorem frame_setI (s : State) (a : Word) : Frame s (s.setI a) [] [.index] := by constructor <;> simp

/-- Where a skip goes (R91). -/
theorem skipIf_pc_toNat (s : State) (b : Bool) :
    (s.skipIf b).pc.toNat = if b then (s.pc.toNat + 2) % 65536 else s.pc.toNat := by
  cases b <;> simp [State.skipIf]

/-! ### Words -/

theorem wordIs_formatNNN (i : Instr) (op : BitVec 4) (nnn : Addr12) (h : encode i = formatNNN op nnn) :
    WordIs i (op.toNat * 4096 + nnn.toNat) := by
  unfold WordIs
  rw [h, formatNNN_toNat]

theorem wordIs_formatXNN (i : Instr) (op : BitVec 4) (x : Reg) (nn : Byte) (h : encode i = formatXNN op x nn) :
    WordIs i (op.toNat * 4096 + x.toNat * 256 + nn.toNat) := by
  unfold WordIs
  rw [h, formatXNN_toNat]

theorem wordIs_formatXYN (i : Instr) (op : BitVec 4) (x y : Reg) (n : Nibble) (h : encode i = formatXYN op x y n) :
    WordIs i (op.toNat * 4096 + x.toNat * 256 + y.toNat * 16 + n.toNat) := by
  unfold WordIs
  rw [h, formatXYN_toNat]

/-! ### Cycle and environment -/

/-- An address inside MEM is reached as it is under either policy (R44). -/
theorem effAddr_small (cfg : Config) {a : Nat} (h : a < 4096) : effAddr cfg a = a := by
  unfold effAddr
  split <;> simp [memSize, Nat.mod_eq_of_lt h]

/-- The fetch in bounds (R42). -/
theorem fetch_ok {s : State} (h : InBounds s.cfg s.pc 2) :
    s.fetch = .ok (wordOfBytes (s.readByte s.pc.toNat) (s.readByte (s.pc.toNat + 1))) := by
  unfold State.fetch
  rw [firstBad_none h]

/-- One countdown is subtraction that stops at 0 (R160). -/
theorem countDown_toNat (t : Byte) : (countDown t).toNat = t.toNat - 1 := by
  unfold countDown
  split
  · simp_all
  · rename_i h
    have : t.toNat ≠ 0 := fun h' => h (by rw [← BitVec.toNat_inj]; simpa using h')
    bv_omega

end Sys2Proof.Machine
end

