-- ==== Sys2Proof/Laws/PerInstr.lean ====
section
/-! SUPPORT. The per-instruction family `TableRow`: the word of every instruction meets the mask and match of the row of
spec/opcode_table.json that carries the instruction's pattern. -/

namespace Sys2Proof.Laws

theorem and_append {m n : Nat} (a b : BitVec m) (c d : BitVec n) : (a ++ c) &&& (b ++ d) = (a &&& b) ++ (c &&& d) := by
  apply BitVec.eq_of_getLsbD_eq
  intro k _
  simp only [BitVec.getLsbD_and, BitVec.getLsbD_append]
  split <;> rfl

theorem and_formatNNN (a b : BitVec 4) (m n : Addr12) : formatNNN a m &&& formatNNN b n = formatNNN (a &&& b) (m &&& n) :=
  and_append a b m n

theorem and_formatXNN (a b : BitVec 4) (x z : Reg) (m n : Byte) :
    formatXNN a x m &&& formatXNN b z n = formatXNN (a &&& b) (x &&& z) (m &&& n) := by
  unfold formatXNN
  rw [and_append, and_append]

theorem and_formatXYN (a b : BitVec 4) (x z y u : Reg) (m n : Nibble) :
    formatXYN a x y m &&& formatXYN b z u n = formatXYN (a &&& b) (x &&& z) (y &&& u) (m &&& n) := by
  unfold formatXYN
  rw [and_append, and_append, and_append]

/-- A row of the opcode table carries the instruction's pattern, and the instruction's word is one of that row's (R66). -/
def TableRow.Statement (i : Instr) : Prop :=
  ∃ r ∈ opcodeTable, r.pattern = i.pattern ∧ encode i &&& r.maskBits = r.matchBits

/-- The rows that keep the primary opcode alone, format `NNN`. -/
theorem and_mask_NNN (op : BitVec 4) (nnn : Addr12) : formatNNN op nnn &&& 0xF000#16 = formatNNN op 0 := by
  have h := and_formatNNN op 0xF#4 nnn 0#12
  have f : op &&& 0xF#4 = op := BitVec.and_allOnes
  rw [BitVec.and_zero, f] at h
  exact h

/-- The rows that keep the primary opcode alone, format `XNN`. -/
theorem and_mask_XNN (op : BitVec 4) (x : Reg) (nn : Byte) : formatXNN op x nn &&& 0xF000#16 = formatXNN op 0 0 := by
  have h := and_formatXNN op 0xF#4 x 0#4 nn 0#8
  have f : op &&& 0xF#4 = op := BitVec.and_allOnes
  rw [BitVec.and_zero, BitVec.and_zero, f] at h
  exact h

/-- The rows that keep the primary opcode and `NN`, format `XNN`. -/
theorem and_mask_XSS (op : BitVec 4) (x : Reg) (nn : Byte) : formatXNN op x nn &&& 0xF0FF#16 = formatXNN op 0 nn := by
  have h := and_formatXNN op 0xF#4 x 0#4 nn 0xFF#8
  have e : nn &&& 0xFF#8 = nn := BitVec.and_allOnes
  have f : op &&& 0xF#4 = op := BitVec.and_allOnes
  rw [BitVec.and_zero, e, f] at h
  exact h

/-- The rows that keep the primary opcode alone, format `XYN`. -/
theorem and_mask_XY (op : BitVec 4) (x y : Reg) (n : Nibble) : formatXYN op x y n &&& 0xF000#16 = formatXYN op 0 0 0 := by
  have h := and_formatXYN op 0xF#4 x 0#4 y 0#4 n 0#4
  have f : op &&& 0xF#4 = op := BitVec.and_allOnes
  rw [BitVec.and_zero, BitVec.and_zero, BitVec.and_zero, f] at h
  exact h

/-- The rows that keep the primary opcode and `N`, format `XYN`. -/
theorem and_mask_XYN (op : BitVec 4) (x y : Reg) (n : Nibble) : formatXYN op x y n &&& 0xF00F#16 = formatXYN op 0 0 n := by
  have h := and_formatXYN op 0xF#4 x 0#4 y 0#4 n 0xF#4
  have e : n &&& 0xF#4 = n := BitVec.and_allOnes
  have f : op &&& 0xF#4 = op := BitVec.and_allOnes
  rw [BitVec.and_zero, BitVec.and_zero, e, f] at h
  exact h

theorem TableRow.cls : TableRow.Statement (.cls) :=
  ⟨⟨"00E0", 0xFFFF, 0x00E0⟩, by decide, rfl, rfl⟩

theorem TableRow.ret : TableRow.Statement (.ret) :=
  ⟨⟨"00EE", 0xFFFF, 0x00EE⟩, by decide, rfl, rfl⟩

theorem TableRow.sys (nnn : Addr12) : TableRow.Statement (.sys nnn) :=
  ⟨⟨"0NNN", 0xF000, 0x0000⟩, by decide, rfl, and_mask_NNN 0x0 nnn⟩

theorem TableRow.jp (nnn : Addr12) : TableRow.Statement (.jp nnn) :=
  ⟨⟨"1NNN", 0xF000, 0x1000⟩, by decide, rfl, and_mask_NNN 0x1 nnn⟩

theorem TableRow.call (nnn : Addr12) : TableRow.Statement (.call nnn) :=
  ⟨⟨"2NNN", 0xF000, 0x2000⟩, by decide, rfl, and_mask_NNN 0x2 nnn⟩

theorem TableRow.seImm (x : Reg) (nn : Byte) : TableRow.Statement (.seImm x nn) :=
  ⟨⟨"3XNN", 0xF000, 0x3000⟩, by decide, rfl, and_mask_XNN 0x3 x nn⟩

theorem TableRow.sneImm (x : Reg) (nn : Byte) : TableRow.Statement (.sneImm x nn) :=
  ⟨⟨"4XNN", 0xF000, 0x4000⟩, by decide, rfl, and_mask_XNN 0x4 x nn⟩

theorem TableRow.seReg (x y : Reg) : TableRow.Statement (.seReg x y) :=
  ⟨⟨"5XY0", 0xF00F, 0x5000⟩, by decide, rfl, and_mask_XYN 0x5 x y 0x0⟩

theorem TableRow.reserved5 (x y : Reg) (n : Nibble) : TableRow.Statement (.reserved5 x y n) :=
  ⟨⟨"5XYN", 0xF000, 0x5000⟩, by decide, rfl, and_mask_XY 0x5 x y n⟩

theorem TableRow.ldImm (x : Reg) (nn : Byte) : TableRow.Statement (.ldImm x nn) :=
  ⟨⟨"6XNN", 0xF000, 0x6000⟩, by decide, rfl, and_mask_XNN 0x6 x nn⟩

theorem TableRow.addImm (x : Reg) (nn : Byte) : TableRow.Statement (.addImm x nn) :=
  ⟨⟨"7XNN", 0xF000, 0x7000⟩, by decide, rfl, and_mask_XNN 0x7 x nn⟩

theorem TableRow.ldReg (x y : Reg) : TableRow.Statement (.ldReg x y) :=
  ⟨⟨"8XY0", 0xF00F, 0x8000⟩, by decide, rfl, and_mask_XYN 0x8 x y 0x0⟩

theorem TableRow.orReg (x y : Reg) : TableRow.Statement (.orReg x y) :=
  ⟨⟨"8XY1", 0xF00F, 0x8001⟩, by decide, rfl, and_mask_XYN 0x8 x y 0x1⟩

theorem TableRow.andReg (x y : Reg) : TableRow.Statement (.andReg x y) :=
  ⟨⟨"8XY2", 0xF00F, 0x8002⟩, by decide, rfl, and_mask_XYN 0x8 x y 0x2⟩

theorem TableRow.xorReg (x y : Reg) : TableRow.Statement (.xorReg x y) :=
  ⟨⟨"8XY3", 0xF00F, 0x8003⟩, by decide, rfl, and_mask_XYN 0x8 x y 0x3⟩

theorem TableRow.addReg (x y : Reg) : TableRow.Statement (.addReg x y) :=
  ⟨⟨"8XY4", 0xF00F, 0x8004⟩, by decide, rfl, and_mask_XYN 0x8 x y 0x4⟩

theorem TableRow.sub (x y : Reg) : TableRow.Statement (.sub x y) :=
  ⟨⟨"8XY5", 0xF00F, 0x8005⟩, by decide, rfl, and_mask_XYN 0x8 x y 0x5⟩

theorem TableRow.shr (x y : Reg) : TableRow.Statement (.shr x y) :=
  ⟨⟨"8XY6", 0xF00F, 0x8006⟩, by decide, rfl, and_mask_XYN 0x8 x y 0x6⟩

theorem TableRow.subn (x y : Reg) : TableRow.Statement (.subn x y) :=
  ⟨⟨"8XY7", 0xF00F, 0x8007⟩, by decide, rfl, and_mask_XYN 0x8 x y 0x7⟩

theorem TableRow.shl (x y : Reg) : TableRow.Statement (.shl x y) :=
  ⟨⟨"8XYE", 0xF00F, 0x800E⟩, by decide, rfl, and_mask_XYN 0x8 x y 0xE⟩

theorem TableRow.reserved8 (x y : Reg) (n : Nibble) : TableRow.Statement (.reserved8 x y n) :=
  ⟨⟨"8XYN", 0xF000, 0x8000⟩, by decide, rfl, and_mask_XY 0x8 x y n⟩

theorem TableRow.sneReg (x y : Reg) : TableRow.Statement (.sneReg x y) :=
  ⟨⟨"9XY0", 0xF00F, 0x9000⟩, by decide, rfl, and_mask_XYN 0x9 x y 0x0⟩

theorem TableRow.reserved9 (x y : Reg) (n : Nibble) : TableRow.Statement (.reserved9 x y n) :=
  ⟨⟨"9XYN", 0xF000, 0x9000⟩, by decide, rfl, and_mask_XY 0x9 x y n⟩

theorem TableRow.ldI (nnn : Addr12) : TableRow.Statement (.ldI nnn) :=
  ⟨⟨"ANNN", 0xF000, 0xA000⟩, by decide, rfl, and_mask_NNN 0xA nnn⟩

theorem TableRow.jpV0 (nnn : Addr12) : TableRow.Statement (.jpV0 nnn) :=
  ⟨⟨"BNNN", 0xF000, 0xB000⟩, by decide, rfl, and_mask_NNN 0xB nnn⟩

theorem TableRow.rnd (x : Reg) (nn : Byte) : TableRow.Statement (.rnd x nn) :=
  ⟨⟨"CXNN", 0xF000, 0xC000⟩, by decide, rfl, and_mask_XNN 0xC x nn⟩

theorem TableRow.drw (x y : Reg) (n : Nibble) : TableRow.Statement (.drw x y n) :=
  ⟨⟨"DXYN", 0xF000, 0xD000⟩, by decide, rfl, and_mask_XY 0xD x y n⟩

theorem TableRow.skp (x : Reg) : TableRow.Statement (.skp x) :=
  ⟨⟨"EX9E", 0xF0FF, 0xE09E⟩, by decide, rfl, and_mask_XSS 0xE x 0x9E⟩

theorem TableRow.sknp (x : Reg) : TableRow.Statement (.sknp x) :=
  ⟨⟨"EXA1", 0xF0FF, 0xE0A1⟩, by decide, rfl, and_mask_XSS 0xE x 0xA1⟩

theorem TableRow.reservedE (x : Reg) (nn : Byte) : TableRow.Statement (.reservedE x nn) :=
  ⟨⟨"EXNN", 0xF000, 0xE000⟩, by decide, rfl, and_mask_XNN 0xE x nn⟩

theorem TableRow.ldVxDt (x : Reg) : TableRow.Statement (.ldVxDt x) :=
  ⟨⟨"FX07", 0xF0FF, 0xF007⟩, by decide, rfl, and_mask_XSS 0xF x 0x07⟩

theorem TableRow.ldVxK (x : Reg) : TableRow.Statement (.ldVxK x) :=
  ⟨⟨"FX0A", 0xF0FF, 0xF00A⟩, by decide, rfl, and_mask_XSS 0xF x 0x0A⟩

theorem TableRow.ldDtVx (x : Reg) : TableRow.Statement (.ldDtVx x) :=
  ⟨⟨"FX15", 0xF0FF, 0xF015⟩, by decide, rfl, and_mask_XSS 0xF x 0x15⟩

theorem TableRow.ldStVx (x : Reg) : TableRow.Statement (.ldStVx x) :=
  ⟨⟨"FX18", 0xF0FF, 0xF018⟩, by decide, rfl, and_mask_XSS 0xF x 0x18⟩

theorem TableRow.addI (x : Reg) : TableRow.Statement (.addI x) :=
  ⟨⟨"FX1E", 0xF0FF, 0xF01E⟩, by decide, rfl, and_mask_XSS 0xF x 0x1E⟩

theorem TableRow.ldF (x : Reg) : TableRow.Statement (.ldF x) :=
  ⟨⟨"FX29", 0xF0FF, 0xF029⟩, by decide, rfl, and_mask_XSS 0xF x 0x29⟩

theorem TableRow.ldB (x : Reg) : TableRow.Statement (.ldB x) :=
  ⟨⟨"FX33", 0xF0FF, 0xF033⟩, by decide, rfl, and_mask_XSS 0xF x 0x33⟩

theorem TableRow.ldMemVx (x : Reg) : TableRow.Statement (.ldMemVx x) :=
  ⟨⟨"FX55", 0xF0FF, 0xF055⟩, by decide, rfl, and_mask_XSS 0xF x 0x55⟩

theorem TableRow.ldVxMem (x : Reg) : TableRow.Statement (.ldVxMem x) :=
  ⟨⟨"FX65", 0xF0FF, 0xF065⟩, by decide, rfl, and_mask_XSS 0xF x 0x65⟩

theorem TableRow.reservedF (x : Reg) (nn : Byte) : TableRow.Statement (.reservedF x nn) :=
  ⟨⟨"FXNN", 0xF000, 0xF000⟩, by decide, rfl, and_mask_XNN 0xF x nn⟩

end Sys2Proof.Laws
end

