-- ==== Sys2Proof/Tests/Slice0.lean ====
section
/-! SUPPORT. Tests of the model. Every expected value is a vector of 95_test_vectors.md (its id is named) or worked out by
hand from the rule cited. The last part holds, for every statement with hypotheses, a state and operands that meet them. -/

namespace Sys2Proof.Tests

open Sys2Proof Sys2Proof.Machine

/-! ### Well-formed terms: the ill-formed term of each check is refused -/

theorem test_wf_sys_refused : (Instr.sys 0x0E0).wf = false ∧ (Instr.sys 0x0EE).wf = false ∧ (Instr.sys 0x0E1).wf = true := by decide
theorem test_wf_reserved5_refused : (Instr.reserved5 1 2 0).wf = false ∧ (Instr.reserved5 1 2 1).wf = true := by decide
theorem test_wf_reserved8_refused : (Instr.reserved8 1 2 0xE).wf = false ∧ (Instr.reserved8 1 2 8).wf = true := by decide
theorem test_wf_reserved9_refused : (Instr.reserved9 1 2 0).wf = false ∧ (Instr.reserved9 1 2 0xF).wf = true := by decide
theorem test_wf_reservedE_refused : (Instr.reservedE 1 0xA1).wf = false ∧ (Instr.reservedE 1 0x9F).wf = true := by decide
theorem test_wf_reservedF_refused : (Instr.reservedF 1 0x65).wf = false ∧ (Instr.reservedF 1 0x75).wf = true := by decide
theorem test_valid_font_refused :
    Config.modern.valid = true ∧ ({ Config.modern with font := Vector.replicate 80 0 } : Config).valid = false := by decide

/-! ### Decoding: a word of every constructor, written out from the patterns of 30_encoding.md R66 and R70 -/

theorem test_decode_cls : decodeWord 0x00E0 = .cls := by decide                             -- T-E2
theorem test_decode_ret : decodeWord 0x00EE = .ret := by decide                             -- T-E3
theorem test_decode_sys : decodeWord 0x0FFF = .sys 0xFFF := by decide                       -- T-E6
theorem test_decode_jp : decodeWord 0x1234 = .jp 0x234 := by decide                         -- T-E21
theorem test_decode_call : decodeWord 0x2ABC = .call 0xABC := by decide                     -- 2NNN
theorem test_decode_seImm : decodeWord 0x3A5C = .seImm 0xA 0x5C := by decide                -- 3XNN
theorem test_decode_sneImm : decodeWord 0x4A5C = .sneImm 0xA 0x5C := by decide              -- 4XNN
theorem test_decode_seReg : decodeWord 0x5120 = .seReg 1 2 := by decide                     -- T-E7
theorem test_decode_reserved5 : decodeWord 0x5121 = .reserved5 1 2 1 := by decide           -- T-E8
theorem test_decode_ldImm : decodeWord 0x6A5C = .ldImm 0xA 0x5C := by decide                -- 6XNN
theorem test_decode_addImm : decodeWord 0x7A5C = .addImm 0xA 0x5C := by decide              -- 7XNN
theorem test_decode_ldReg : decodeWord 0x8AB0 = .ldReg 0xA 0xB := by decide                 -- 8XY0
theorem test_decode_orReg : decodeWord 0x8AB1 = .orReg 0xA 0xB := by decide                 -- 8XY1
theorem test_decode_andReg : decodeWord 0x8AB2 = .andReg 0xA 0xB := by decide               -- 8XY2
theorem test_decode_xorReg : decodeWord 0x8AB3 = .xorReg 0xA 0xB := by decide               -- 8XY3
theorem test_decode_addReg : decodeWord 0x8AB4 = .addReg 0xA 0xB := by decide               -- 8XY4
theorem test_decode_sub : decodeWord 0x8AB5 = .sub 0xA 0xB := by decide                     -- 8XY5
theorem test_decode_shr : decodeWord 0x8126 = .shr 1 2 := by decide                         -- T-E10
theorem test_decode_subn : decodeWord 0x8AB7 = .subn 0xA 0xB := by decide                   -- 8XY7
theorem test_decode_shl : decodeWord 0x812E = .shl 1 2 := by decide                         -- T-E13
theorem test_decode_reserved8 : decodeWord 0x812F = .reserved8 1 2 0xF := by decide         -- T-E12
theorem test_decode_sneReg : decodeWord 0x9AB0 = .sneReg 0xA 0xB := by decide               -- 9XY0
theorem test_decode_reserved9 : decodeWord 0x912F = .reserved9 1 2 0xF := by decide         -- T-E9
theorem test_decode_ldI : decodeWord 0xA2F0 = .ldI 0x2F0 := by decide                       -- ANNN
theorem test_decode_jpV0 : decodeWord 0xBFFF = .jpV0 0xFFF := by decide                     -- T-E20
theorem test_decode_rnd : decodeWord 0xC30F = .rnd 3 0x0F := by decide                      -- CXNN
theorem test_decode_drw : decodeWord 0xD120 = .drw 1 2 0 := by decide                       -- T-E19
theorem test_decode_skp : decodeWord 0xE19E = .skp 1 := by decide                           -- T-E14
theorem test_decode_sknp : decodeWord 0xE1A1 = .sknp 1 := by decide                         -- EXA1
theorem test_decode_reservedE : decodeWord 0xE19F = .reservedE 1 0x9F := by decide          -- T-E15
theorem test_decode_ldVxDt : decodeWord 0xFA07 = .ldVxDt 0xA := by decide                   -- FX07
theorem test_decode_ldVxK : decodeWord 0xFA0A = .ldVxK 0xA := by decide                     -- FX0A
theorem test_decode_ldDtVx : decodeWord 0xFA15 = .ldDtVx 0xA := by decide                   -- FX15
theorem test_decode_ldStVx : decodeWord 0xFA18 = .ldStVx 0xA := by decide                   -- FX18
theorem test_decode_addI : decodeWord 0xFA1E = .addI 0xA := by decide                       -- FX1E
theorem test_decode_ldF : decodeWord 0xFA29 = .ldF 0xA := by decide                         -- FX29
theorem test_decode_ldB : decodeWord 0xFA33 = .ldB 0xA := by decide                         -- FX33
theorem test_decode_ldMemVx : decodeWord 0xFA55 = .ldMemVx 0xA := by decide                 -- FX55
theorem test_decode_ldVxMem : decodeWord 0xF165 = .ldVxMem 1 := by decide                   -- T-E16
theorem test_decode_reservedF : decodeWord 0xF1FF = .reservedF 1 0xFF := by decide          -- T-E18

/-- Bytes in memory order, the high byte first (T-E21); fewer than two bytes are refused by name. -/
theorem test_decode_bytes :
    decode [0x12, 0x34, 0x56] = .ok (.jp 0x234, [0x56]) ∧ decode [0x12] = .error .truncated ∧
    decodeTableWord 16 0x1234 = some (.jp 0x234) := by decide

/-! ### One step: the vectors of 95_test_vectors.md -/

/-- The reset state with the registers listed set (V[0] is 0 after reset, R27). -/
def withRegs (s : State) (rs : List (Reg × Byte)) : State := rs.foldl (fun t r => t.setReg r.1 r.2) s

/-- The reset state with the instruction word `w` at 0x0200 and the registers listed set. -/
def start (w : Nat) (rs : List (Reg × Byte)) : State := withRegs (State.reset.withFetchWord 16 w) rs

/-- The legacy instance: all three quirk flags 1. -/
def legacy : Config := { Config.modern with qShift := true, qJump0 := true, qInci := true }

/-- What `f` reads in the state a step gives. -/
def after {α : Type} (s : State) (f : State → α) : Option α :=
  match step s with
  | .next t => some (f t)
  | _ => none

/-- The general registers `rs`, `I` and `PC`. -/
def view (rs : List Reg) (t : State) : List Byte × Word × Word := (rs.map t.reg, t.i, t.pc)

/-- The fault record's fields, with FATAL and PC (R151). -/
def fatalView (t : State) : Bool × Cause × Word × Word × Word × Word :=
  (t.fatal, t.frec.cause, t.frec.addr, t.frec.op, t.frec.info, t.pc)

/-- The on pixels of a row of DISP, by column. -/
def lit (y : Fin 32) (t : State) : List Nat := (List.range 64).filter (fun x => t.disp[y.val].getLsbD x)

/-! #### Control transfer -/

theorem test_sys : after (start 0x0123 []) (view [0]) = some ([0], 0, 0x0202) := by decide               -- T-C22
theorem test_jp : after (start 0x1234 []) State.pc = some 0x0234 := by decide                            -- T-C1
theorem test_call : after { start 0x2300 [] with sp := 15 } (fun t => (t.stack[15], t.sp, t.pc)) =
    some (0x0202, 16, 0x0300) := by decide                                                               -- T-C5
theorem test_call_overflow : after { start 0x2300 [] with sp := 16 } fatalView =
    some (true, .stackOverflow, 0x0200, 0x2300, 0x0300, 0x0202) := by decide                             -- T-C6
theorem test_ret : after { start 0x00EE [] with sp := 1, stack := (Vector.replicate 16 0).set 0 0x0456 }
    (fun t => (t.sp, t.pc)) = some (0, 0x0456) := by decide                                              -- T-C7
theorem test_ret_underflow : after (start 0x00EE []) fatalView =
    some (true, .stackUnderflow, 0x0200, 0x00EE, 0, 0x0202) := by decide                                 -- T-C8
theorem test_seImm_equal : after (start 0x320A [(2, 0x0A)]) State.pc = some 0x0204 := by decide          -- T-C9
theorem test_seImm_other : after (start 0x320A [(2, 0x0B)]) State.pc = some 0x0202 := by decide          -- T-C10
theorem test_sneImm_equal : after (start 0x420A [(2, 0x0A)]) State.pc = some 0x0202 := by decide         -- T-C11
theorem test_sneImm_other : after (start 0x420A [(2, 0x0B)]) State.pc = some 0x0204 := by decide         -- T-C12
theorem test_seReg_equal : after (start 0x5120 [(1, 7), (2, 7)]) State.pc = some 0x0204 := by decide     -- T-C13
theorem test_seReg_other : after (start 0x5120 [(1, 7), (2, 8)]) State.pc = some 0x0202 := by decide     -- T-C14
theorem test_sneReg_other : after (start 0x9120 [(1, 7), (2, 8)]) State.pc = some 0x0204 := by decide    -- T-C16
theorem test_sneReg_equal : after (start 0x9120 [(1, 7), (2, 7)]) State.pc = some 0x0202 := by decide    -- T-C17
theorem test_reserved5 : after (start 0x5121 [(1, 7), (2, 7)]) State.pc = some 0x0202 := by decide       -- T-C18
theorem test_reserved9 : after (start 0x912F [(1, 7), (2, 8)]) State.pc = some 0x0202 := by decide       -- T-E9
theorem test_jpV0_modern : after (start 0xB300 [(3, 0x20), (0, 0x04)]) State.pc = some 0x0320 := by decide -- T-C19
theorem test_jpV0_legacy : after { start 0xB300 [(3, 0x20), (0, 0x04)] with cfg := legacy } State.pc =
    some 0x0304 := by decide                                                                             -- T-C20

/-! #### Registers and arithmetic -/

theorem test_ldImm : after (start 0x6F07 []) (view [15]) = some ([0x07], 0, 0x0202) := by decide         -- T-A2
theorem test_addImm : after (start 0x7101 [(1, 0xFF)]) (view [1, 15]) = some ([0x00, 0], 0, 0x0202) := by decide -- T-A4
theorem test_ldReg : after (start 0x8120 [(2, 0x33)]) (view [1, 2]) = some ([0x33, 0x33], 0, 0x0202) := by decide -- T-A5
theorem test_orReg : after (start 0x8121 [(1, 0xF0), (2, 0x0F), (15, 7)]) (view [1, 15]) =
    some ([0xFF, 7], 0, 0x0202) := by decide                                                             -- T-A6
theorem test_andReg : after (start 0x8122 [(1, 0xF0), (2, 0x3C), (15, 7)]) (view [1, 15]) =
    some ([0x30, 7], 0, 0x0202) := by decide                                                             -- T-A7
theorem test_xorReg : after (start 0x8123 [(1, 0xF0), (2, 0x3C), (15, 7)]) (view [1, 15]) =
    some ([0xCC, 7], 0, 0x0202) := by decide                                                             -- T-A8
theorem test_addReg : after (start 0x8124 [(1, 0xFF), (2, 0xFF)]) (view [1, 15]) =
    some ([0xFE, 1], 0, 0x0202) := by decide                                                             -- T-A12
theorem test_addReg_into_vf : after (start 0x8F14 [(15, 0x90), (1, 0x80)]) (view [15]) =
    some ([1], 0, 0x0202) := by decide                                                                   -- T-A15
theorem test_sub : after (start 0x8125 [(1, 0x03), (2, 0x0A)]) (view [1, 15]) =
    some ([0xF9, 0], 0, 0x0202) := by decide                                                             -- T-A19
theorem test_sub_equal : after (start 0x8125 [(1, 0x05), (2, 0x05)]) (view [1, 15]) =
    some ([0x00, 1], 0, 0x0202) := by decide                                                             -- T-A20
theorem test_subn : after (start 0x8127 [(1, 0x03), (2, 0x0A)]) (view [1, 15]) =
    some ([0x07, 1], 0, 0x0202) := by decide                                                             -- T-A23
theorem test_subn_borrow : after (start 0x8127 [(1, 0x0A), (2, 0x03)]) (view [1, 15]) =
    some ([0xF9, 0], 0, 0x0202) := by decide                                                             -- T-A24
theorem test_shr_modern : after (start 0x8126 [(1, 0x05), (2, 0x08)]) (view [1, 2, 15]) =
    some ([0x02, 0x08, 1], 0, 0x0202) := by decide                                                       -- T-A26
theorem test_shr_legacy : after { start 0x8126 [(1, 0x05), (2, 0x08)] with cfg := legacy } (view [1, 2, 15]) =
    some ([0x04, 0x08, 0], 0, 0x0202) := by decide                                                       -- T-A27
theorem test_shl_modern : after (start 0x812E [(1, 0x81), (2, 0x21)]) (view [1, 15]) =
    some ([0x02, 1], 0, 0x0202) := by decide                                                             -- T-A32
theorem test_shl_legacy : after { start 0x812E [(1, 0x81), (2, 0x21)] with cfg := legacy } (view [1, 2, 15]) =
    some ([0x42, 0x21, 0], 0, 0x0202) := by decide                                                       -- T-A33
theorem test_rnd : after { start 0xC30F [] with inputs := [⟨0xA7, none, false⟩] } (view [3]) =
    some ([0x07], 0, 0x0202) := by decide                                                                -- T-A36
theorem test_reserved8 : after (start 0x8128 [(1, 0x12), (2, 0x34)]) (view [1, 2, 15]) =
    some ([0x12, 0x34, 0], 0, 0x0202) := by decide                                                       -- T-A39

/-! #### Index register and memory -/

theorem test_ldI : after (start 0xA2F0 []) State.i = some 0x02F0 := by decide                            -- T-M1
theorem test_addI_overflow : after { start 0xF21E [(2, 0x01)] with i := 0xFFFF } (view [15]) =
    some ([1], 0x0000, 0x0202) := by decide                                                              -- T-M6
theorem test_addI_of_vf : after { start 0xFF1E [(15, 0xFF)] with i := 0x0F00 } (view [15]) =
    some ([0], 0x0FFF, 0x0202) := by decide                                                              -- T-M5
theorem test_ldF : after (start 0xF429 [(4, 0xFF)]) State.i = some 0x054B := by decide                   -- T-M17
theorem test_ldB : after { start 0xF333 [(3, 0xFE)] with i := 0x0300 }
    (fun t => (t.readByte 0x300, t.readByte 0x301, t.readByte 0x302, t.i)) = some (2, 5, 4, 0x0300) := by decide -- T-M18
theorem test_ldB_bounds : after { start 0xF333 [(3, 0xFE)] with i := 0x0FFE } fatalView =
    some (true, .memoryBounds, 0x0200, 0xF333, 0x1000, 0x0202) := by decide                              -- T-M23
theorem test_ldMemVx : after { start 0xF255 [(0, 0x11), (1, 0x22), (2, 0x33)] with i := 0x0400, cfg := legacy }
    (fun t => (t.readByte 0x400, t.readByte 0x401, t.readByte 0x402, t.i)) =
    some (0x11, 0x22, 0x33, 0x0403) := by decide                                                         -- T-M8
theorem test_ldMemVx_bounds : after { start 0xFF55 [(0, 0x11)] with i := 0x0FF1 }
    (fun t => (t.fatal, t.frec.info, t.pc, t.readByte 0xFF1)) =
    some (true, 0x1000, 0x0202, 0x00) := by decide                      -- T-M11
theorem test_ldVxMem : after { start 0xF165 [(2, 9)] with i := 0x0050 } (view [0, 1, 2]) =
    some ([0xF0, 0x90, 9], 0x0050, 0x0202) := by decide                                                  -- R125 on glyph 0 (R28)
theorem test_ldVxMem_bounds : after { start 0xF065 [] with i := 0x1234 } fatalView =
    some (true, .memoryBounds, 0x0200, 0xF065, 0x1234, 0x0202) := by decide                              -- T-M13

/-! #### Display -/

theorem test_cls : after { start 0x00E0 [(15, 3)] with disp := Vector.replicate 32 7 }
    (fun t => (lit 31 t, t.out, t.reg 15)) = some ([], [.clear], 3) := by decide                         -- T-D11
/-- T-D8: a collision at the right edge, clipped. -/
theorem test_drw_collides :
    after { (start 0xD011 [(0, 62), (1, 0)]).writeByte 0x300 0xFF with
            i := 0x300, disp := (Vector.replicate 32 0).set 0 (BitVec.twoPow 64 63) }
      (fun t => (lit 0 t, t.reg 15, t.out)) =
    some ([62], 1, [.pixel 62 0 true, .pixel 63 0 false]) := by decide
/-- T-D10: the column is the old VF; T-D3: the row is taken mod 32. -/
theorem test_drw_reads_old_vf :
    after { (start 0xDF11 [(15, 69), (1, 33)]).writeByte 0x300 0x80 with i := 0x300 }
      (fun t => (lit 1 t, t.reg 15, t.out)) = some ([5], 0, [.pixel 5 1 true]) := by decide

/-! #### Keypad and timers -/

theorem test_skp : after { start 0xE49E [(4, 7)] with kp := 0x0080 } State.pc = some 0x0204 := by decide   -- T-K1
theorem test_skp_range : after (start 0xE49E [(4, 0x10)]) fatalView =
    some (true, .keyIndexRange, 0x0200, 0xE49E, 0x10, 0x0202) := by decide                               -- T-K5
theorem test_sknp : after { start 0xE4A1 [(4, 7)] with kp := 0xFF7F } State.pc = some 0x0204 := by decide  -- T-K4
/-- The second part of T-K5, with EXA1: key 0 is tested, and it is up. -/
theorem test_sknp_mask4 :
    after { start 0xE4A1 [(4, 0x10)] with cfg := { Config.modern with keyPolicy := .mask4 } } State.pc =
    some 0x0204 := by decide
theorem test_ldVxK_waits : after (start 0xF30A [(3, 9)]) (view [3]) = some ([9], 0, 0x0200) := by decide   -- T-K6
theorem test_ldVxK_lowest : after { start 0xFF0A [] with kp := 0x8000 } (view [15]) =
    some ([0x0F], 0, 0x0202) := by decide                                                                -- T-K13
theorem test_ldVxDt : after { start 0xF507 [] with dt := 0x2A } (view [5]) = some ([0x2A], 0, 0x0202) := by decide -- T-K8
/-- T-K7 and R173: DT is set by the cycle, then the tick of the gap counts it down. -/
theorem test_ldDtVx : after { start 0xF515 [(5, 3)] with inputs := [⟨0, some 0x0280, true⟩] }
    (fun t => (t.dt, t.st, t.kp)) = some (2, 0, 0x0280) := by decide
theorem test_ldStVx : after { start 0xF518 [(5, 4)] with inputs := [⟨0, none, true⟩] } (fun t => (t.dt, t.st)) =
    some (0, 3) := by decide                                                                             -- T-K9
theorem test_tick_no_wrap : (State.timerTick { State.reset with dt := 5 }).dt = 4 ∧
    (State.timerTick { State.reset with dt := 5 }).st = 0 := by decide                                   -- T-K11
theorem test_reservedE : after (start 0xE19F [(1, 0x10)]) (view [1]) = some ([0x10], 0, 0x0202) := by decide -- T-E15
theorem test_reservedF : after (start 0xF175 [(1, 0x10)]) (view [1]) = some ([0x10], 0, 0x0202) := by decide -- T-E17

/-! #### Fetch, bounds, FATAL, load -/

theorem test_fetch_last_word : after { State.reset with pc := 0x0FFE } (fun t => (t.pc, t.fatal)) =
    some (0x1000, false) := by decide                                                                    -- T-F1
theorem test_fetch_above : after { State.reset with pc := 0x0FFF } fatalView =
    some (true, .memoryBounds, 0x0FFF, 0, 0x1000, 0x0FFF) := by decide                                   -- T-F3
/-- T-F7: under `wrap` the low byte of a fetch at 0x0FFF is the byte at 0x000. -/
theorem test_fetch_wraps :
    after { State.reset with pc := 0x0FFF, mem := [(0xFFF, 0x12)], cfg := { Config.modern with oobPolicy := .wrap } }
      State.pc = some 0x0200 := by decide
theorem test_fatal_is_sticky : after { start 0x1234 [] with fatal := true } State.pc = some 0x0200 := by decide -- T-F5
theorem test_host_reset : (State.hostReset { start 0x1234 [(3, 9)] with fatal := true, pc := 0x456, sp := 3 }) =
    State.reset := by decide                                                                             -- T-F6
/-- A loaded program runs from 0x200: the first word of P1 (S7). -/
theorem test_load :
    (match State.reset.hostLoad [0x60, 0x0A] with
     | .next t => after t (view [0])
     | _ => none) = some ([0x0A], 0, 0x0202) := by decide
theorem test_withFetchWord : decode [(start 0x8126 []).readByte 0x200, (start 0x8126 []).readByte 0x201] =
    .ok (.shr 1 2, []) := by decide

/-! ### Witnesses: for every statement with hypotheses, a state and operands that meet them, clause by clause -/

/-- The reset state with `OOB_POLICY = wrap`. -/
def wrapped : State := { State.reset with cfg := { Config.modern with oobPolicy := .wrap } }

/-- The reset state with `KEY_POLICY = mask4`. -/
def masked : State := { State.reset with cfg := { Config.modern with keyPolicy := .mask4 } }

theorem wit_GlyphZeroIsInstalled : Config.modern.valid = true := by decide

/-- A rom of `n` equal bytes. -/
def romOf (n : Nat) : List Byte := List.replicate n 0x12
theorem romOf_length (n : Nat) : (romOf n).length = n := List.length_replicate

theorem wit_LoadCopiesTheRom_longest :
    (romOf 3584).length ≤ 3584 ∧ State.reset.started = false ∧ 3583 < (romOf 3584).length ∧ 0x1FF < 0x200 := by
  rw [romOf_length]
  exact ⟨by decide, rfl, by decide, by decide⟩
theorem wit_LoadCopiesTheRom_above : ([0x12, 0x00] : List Byte).length ≤ 3584 ∧
    0x200 + ([0x12, 0x00] : List Byte).length ≤ 0x202 ∧ 0x202 < 4096 := by decide
theorem wit_LoadCopiesTheRom_tooLong : 3584 < (romOf 3585).length := by
  rw [romOf_length]
  decide
theorem wit_LoadCopiesTheRom_started : ({ State.reset with started := true } : State).started = true := rfl

theorem wit_FetchIsBigEndian_last : InBounds Config.modern 0x0FFE 2 := by unfold InBounds; decide
theorem wit_FetchIsBigEndian_wrap : InBounds wrapped.cfg 0xFFFF 2 := by unfold InBounds; decide
theorem wit_FetchIsBigEndian_above :
    Config.modern.oobPolicy = .fault ∧ (0x0FFF : Word).toNat > 0xFFE ∧ ¬(0x0FFF : Word).toNat > 0xFFF ∧
    (0x1000 : Word).toNat > 0xFFE ∧ (0x1000 : Word).toNat > 0xFFF := by decide

theorem wit_StepRunsTheDecodedInstruction :
    (start 0x6F07 []).running ∧ InBounds (start 0x6F07 []).cfg (start 0x6F07 []).pc 2 ∧
    decode [(start 0x6F07 []).readByte (start 0x6F07 []).pc.toNat,
      (start 0x6F07 []).readByte ((start 0x6F07 []).pc.toNat + 1)] = .ok (.ldImm 15 7, []) ∧
    ∃ t, exec (.ldImm 15 7) { start 0x6F07 [] with pc := (start 0x6F07 []).pc + 2 } = .next t := by
  refine ⟨rfl, ?_, by decide, _, rfl⟩
  unfold InBounds
  decide

theorem wit_GapIsKeypadThenTick :
    ({ State.reset with fatal := true } : State).fatal = true ∧ State.reset.running := ⟨rfl, rfl⟩

theorem wit_FetchAboveMemoryIsFatal :
    ({ State.reset with pc := 0x0FFF } : State).running ∧ State.reset.cfg.oobPolicy = .fault ∧
    ({ State.reset with pc := 0x0FFF } : State).pc.toNat > 0xFFE ∧
    ({ State.reset with pc := 0xFFFF } : State).pc.toNat > 0xFFF := ⟨rfl, rfl, by decide, by decide⟩

theorem wit_ACycleAlwaysCompletes :
    ({ State.reset with fatal := true } : State).fatal = true ∧ State.reset.running := ⟨rfl, rfl⟩

theorem wit_OnlyResetLeavesFatal :
    ({ State.reset with fatal := true } : State).fatal = true ∧
    ∃ t, ({ State.reset with fatal := true } : State).hostLoad [0x12, 0x00] = .next t := ⟨rfl, _, rfl⟩

theorem wit_DecodeAndEncodeAreInverse : (Instr.reservedF 0xF 0xFF).wf = true ∧ (Instr.sys 0xFFF).wf = true ∧
    (Instr.sys 0x0E1).wf = true ∧ (Instr.drw 0xF 0xF 0xF).wf = true ∧ decodeWord 0xFFFF = .reservedF 0xF 0xFF := by decide

theorem wit_DecoderFollowsOpcodeTable :
    decodeWord 0x00EE = .ret ∧ decodeWord 0x00EF = .sys 0x0EF ∧ decodeWord 0xF066 = .reservedF 0 0x66 := by decide

theorem wit_NativeCallChangesOnlyThePc :
    State.reset.running ∧ State.reset.fetch = .ok 0x0000 ∧ IsSysWord 0x0000 ∧
    (start 0x00E1 []).fetch = .ok 0x00E1 ∧ IsSysWord 0x00E1 ∧ (start 0x0FFF []).fetch = .ok 0x0FFF ∧ IsSysWord 0x0FFF := by
  unfold IsSysWord
  exact ⟨rfl, by decide, by decide, by decide, by decide, by decide, by decide⟩

theorem wit_ReservedWordsChangeOnlyThePc_fetched :
    (start 0x812F []).running ∧ (start 0x812F []).fetch = .ok 0x812F ∧ IsReservedWord 0x812F := by
  unfold IsReservedWord
  exact ⟨rfl, by decide, by decide⟩
theorem wit_ReservedWordsChangeOnlyThePc_classes :
    IsReservedWord 0x8128 ∧ IsReservedWord 0x8FFF ∧ IsReservedWord 0xE09D ∧ IsReservedWord 0xE0A0 ∧
    IsReservedWord 0xF066 ∧ IsReservedWord 0xFFFF ∧ IsReservedWord 0x5121 ∧ IsReservedWord 0x912F := by
  unfold IsReservedWord
  exact ⟨by decide, by decide, by decide, by decide, by decide, by decide, by decide, by decide⟩

theorem wit_ReturnPopsThePc :
    0 < ({ State.reset with sp := 1 } : State).sp.val ∧ 0 < ({ State.reset with sp := 16 } : State).sp.val ∧
    State.reset.sp.val = 0 := by decide

theorem wit_CallPushesTheReturnAddress :
    State.reset.sp.val < 16 ∧ ({ State.reset with sp := 15 } : State).sp.val < 16 ∧
    ({ State.reset with sp := 16 } : State).sp.val = 16 := by decide

/-- At the deepest call, where every slot is live; `u` is the subroutine before its RET. -/
theorem wit_ReturnComesBackFromCall : ({ State.reset with sp := 15 } : State).sp.val < 16 ∧
    ∃ t u : State, exec (.call 0x300) { State.reset with sp := 15 } = .next t ∧ u = { t with pc := 0x310 } ∧
      (∀ k : Fin 16, k.val < t.sp.val → u.stack[k.val] = t.stack[k.val]) ∧ u.sp = t.sp :=
  ⟨by decide, _, _, rfl, rfl, fun _ _ => rfl, rfl⟩
/-- The subroutine made a call and returned from it: the dead slot 1 holds a stale value. -/
theorem wit_ReturnComesBackFromCall_stale :
    ∃ t u : State, exec (.call 0x300) State.reset = .next t ∧ u = { t with stack := t.stack.set 1 0x0302 } ∧
      (∀ k : Fin 16, k.val < t.sp.val → u.stack[k.val] = t.stack[k.val]) ∧ u.sp = t.sp ∧ u.stack ≠ t.stack := by
  refine ⟨_, _, rfl, rfl, ?_, rfl, ?_⟩ <;> decide

theorem wit_AddWritesSumAndCarry : (0 : Reg) ≠ 15 ∧ (14 : Reg) ≠ 15 := by decide
theorem wit_SubtractionsWriteDifferenceAndNoBorrow : (0 : Reg) ≠ 15 ∧ (14 : Reg) ≠ 15 := by decide
theorem wit_ShiftsMoveTheQuirkSource :
    0x81 = (if (withRegs State.reset [(1, 0x81)]).cfg.qShift then (withRegs State.reset [(1, 0x81)]).reg 2
      else (withRegs State.reset [(1, 0x81)]).reg 1).toNat ∧ (1 : Reg) ≠ 15 := by decide
theorem wit_ShiftsMoveTheQuirkSource_legacy :
    0xFF = (if ({ withRegs State.reset [(2, 0xFF)] with cfg := legacy } : State).cfg.qShift
      then (withRegs State.reset [(2, 0xFF)]).reg 2 else 0).toNat := by decide
theorem wit_RandomIsMaskedInput :
    ({ State.reset with inputs := [⟨0xA7, none, false⟩] } : State).input.rnd = 0xA7 ∧
    State.reset.input.rnd = Config.freeRnd 0 ∧ (0x00 : Byte) = 0 := ⟨rfl, rfl, rfl⟩

theorem wit_VfIsWrittenByTheSevenFlagWriters_flag :
    ∃ t, exec (.addReg 1 2) State.reset = .next t ∧ writesFlag (.addReg 1 2) = true ∧ t.running ∧
      (2 : Reg) ≠ 15 ∧ (2 : Reg) ∉ destRegs (.addReg 1 2) := ⟨_, rfl, rfl, rfl, by decide, by decide⟩
theorem wit_VfIsWrittenByTheSevenFlagWriters_other :
    ∃ t, exec (.ldImm 14 7) State.reset = .next t ∧ writesFlag (.ldImm 14 7) = false ∧
      (15 : Reg) ∉ destRegs (.ldImm 14 7) := ⟨_, rfl, rfl, by decide⟩
theorem wit_VfIsWrittenByTheSevenFlagWriters_load :
    (15 : Reg) ∉ destRegs (.ldVxMem 14) ∧ (15 : Reg) ∈ destRegs (.ldVxMem 15) := by decide

theorem wit_DecimalStoreWritesThreeDigits :
    InBounds Config.modern 0x0FFD 3 ∧ InBounds wrapped.cfg 0xFFFF 3 := by unfold InBounds; decide
theorem wit_BlockStoreWritesTheRegisters :
    InBounds Config.modern 0x0FF0 ((15 : Reg).toNat + 1) ∧ (15 : Reg).toNat ≤ (15 : Reg).toNat ∧
    InBounds Config.modern 0x0FFF ((0 : Reg).toNat + 1) ∧ InBounds wrapped.cfg 0xFFFF ((15 : Reg).toNat + 1) := by
  unfold InBounds; decide
theorem wit_BlockLoadReadsTheRegisters :
    InBounds Config.modern 0x0FF1 ((14 : Reg).toNat + 1) ∧ (14 : Reg).toNat ≤ (14 : Reg).toNat ∧
    (14 : Reg).toNat < (15 : Reg).toNat ∧ InBounds wrapped.cfg 0xFFFF ((15 : Reg).toNat + 1) := by
  unfold InBounds; decide
theorem wit_OutOfBoundsAccessIsFatal :
    (0x1000 : Word) = (if (0x0FFE : Word).toNat > 0xFFF then 0x0FFE else 0x1000) ∧
    (0x1234 : Word) = (if (0x1234 : Word).toNat > 0xFFF then 0x1234 else 0x1000) ∧
    Config.modern.oobPolicy = .fault ∧ (0x0FFE : Word).toNat + 2 > 0xFFF ∧ (0x0FFE : Word).toNat + (2 : Reg).toNat > 0xFFF ∧
    1 ≤ (3 : Nibble).toNat ∧ (0x0FFE : Word).toNat + (3 : Nibble).toNat - 1 > 0xFFF ∧
    1 ≤ (1 : Nibble).toNat ∧ (0x1234 : Word).toNat + (1 : Nibble).toNat - 1 > 0xFFF := by decide
theorem wit_StoreThenLoadRestoresTheRegisters :
    InBounds Config.modern 0x0FF0 ((15 : Reg).toNat + 1) ∧
    ∃ t u : State, exec (.ldMemVx 15) { State.reset with i := 0x0FF0 } = .next t ∧
      u.mem = t.mem ∧ u.cfg = t.cfg ∧ u.i = 0x0FF0 := by
  obtain ⟨t, h⟩ := exec_next (.ldMemVx 15) { State.reset with i := 0x0FF0 }
  refine ⟨?_, t, { t with i := 0x0FF0 }, h, rfl, rfl, rfl⟩
  unfold InBounds
  decide
theorem wit_ReadReturnsTheLatestWrite : wrapped.cfg.oobPolicy = .wrap ∧ 0xFFF ≤ 0xFFF := by decide
theorem wit_StoredWordIsFetched : InBounds Config.modern 0x0FFE 2 ∧ InBounds wrapped.cfg 0x0FFF 2 := by
  unfold InBounds; decide
theorem wit_OnlyTwoInstructionsStore : (∃ t, exec (.ldVxMem 3) State.reset = .next t) ∧
    (∀ x, Instr.ldVxMem 3 ≠ .ldB x) ∧ ∀ x, Instr.ldVxMem 3 ≠ .ldMemVx x := ⟨⟨_, rfl⟩, nofun, nofun⟩

/-- A sprite of one set bit at the last column and row (R133): the state of the display witnesses. -/
def sprite : State := { (withRegs State.reset [(0, 63), (1, 31)]).writeByte 0x300 0x80 with i := 0x300 }

theorem wit_DrawInvertsTheSpritePixels :
    InBounds sprite.cfg sprite.i (1 : Nibble).toNat ∧ Toggles sprite 0 1 1 63 31 ∧ sprite.pixel 63 31 = false := by
  refine ⟨?_, ⟨0, 0, by decide, by decide, by decide, by decide, by decide⟩, by decide⟩
  unfold InBounds
  decide
theorem wit_DrawInvertsTheSpritePixels_collision :
    Toggles { sprite with disp := (Vector.replicate 32 0).set 31 (BitVec.twoPow 64 63) } 0 1 1 63 31 ∧
    ({ sprite with disp := (Vector.replicate 32 0).set 31 (BitVec.twoPow 64 63) } : State).pixel 63 31 = true :=
  ⟨⟨0, 0, by decide, by decide, by decide, by decide, by decide⟩, by decide⟩
theorem wit_DrawInvertsTheSpritePixels_outside : ¬Toggles sprite 0 1 1 0 31 := by
  rintro ⟨r, c, _, _, h, _⟩
  have : (sprite.reg 0).toNat % 64 = 63 := by decide
  rw [this] at h
  simp at h
  omega
theorem wit_DrawEmitsOneEventPerPixel :
    InBounds Config.modern 0xFFFF (0 : Nibble).toNat ∧ InBounds wrapped.cfg 0xFFFF (15 : Nibble).toNat := by
  unfold InBounds; decide
theorem wit_DoubleDrawRestoresTheBitmap :
    InBounds sprite.cfg sprite.i (15 : Nibble).toNat ∧ (0 : Reg) ≠ 15 ∧ (14 : Reg) ≠ 15 := by unfold InBounds; decide
theorem wit_OnlyDrawAndClearTouchTheDisplay : (∃ t, exec (.jp 0x300) State.reset = .next t) ∧
    Instr.jp 0x300 ≠ .cls ∧ ∀ x y n, Instr.jp 0x300 ≠ .drw x y n := ⟨⟨_, rfl⟩, nofun, nofun⟩

/-- The sink's copy after one pixel (R136). -/
theorem wit_EveryStepKeepsTheSinkACopy :
    State.SinkAgrees { State.reset with out := [.pixel 5 1 true], disp := (Vector.replicate 32 0).set 1 0x20 } ∧
    ∃ t, step { State.reset with out := [.pixel 5 1 true], disp := (Vector.replicate 32 0).set 1 0x20 } = .next t := by
  refine ⟨?_, _, rfl⟩
  unfold State.SinkAgrees
  decide

theorem wit_KeyTestsSkip :
    ((withRegs State.reset [(4, 15)]).reg 4).toNat ≤ 15 ∧ 15 = ((withRegs State.reset [(4, 15)]).reg 4).toNat ∧
    masked.cfg.keyPolicy = .mask4 ∧ 0 = ((withRegs masked [(4, 0x10)]).reg 4).toNat % 16 := by decide
theorem wit_KeyIndexAboveFifteenIsFatal :
    State.reset.cfg.keyPolicy = .fault ∧ ((withRegs State.reset [(4, 16)]).reg 4).toNat > 15 := by decide
theorem wit_WaitForKeyTakesTheLowestKey_pressed :
    (0x8000 : BitVec 16).getLsbD 15 = true ∧ (∀ j, j < 15 → (0x8000 : BitVec 16).getLsbD j = false) ∧
    (0x8001 : BitVec 16).getLsbD 0 = true ∧ ∀ j, j < 0 → (0x8001 : BitVec 16).getLsbD j = false := by
  refine ⟨by decide, by decide, by decide, by decide⟩
theorem wit_WaitForKeyTakesTheLowestKey_none :
    (start 0xF30A []).kp = 0 ∧ (start 0xF30A []).running ∧ (start 0xF30A []).fetch = .ok (encode (.ldVxK 3)) :=
  ⟨rfl, rfl, by decide⟩
theorem wit_TickCountsDownNonzeroTimers : State.reset.running := rfl
theorem wit_TimerReachesZeroAfterExactlyNTicks : ({ State.reset with dt := 0xFF } : State).running := rfl

/-- The spinning word `JP 0x200` at 0x200, with the timers and the iteration count given. -/
def spin (dt : Byte) (k : Nat) (b : Bool) : State :=
  { State.reset with mem := [(0x200, 0x12)], dt := dt, st := dt, iter := k, started := b }

/-- A run of it from DT = ST = 1 under a schedule that ticks in every gap. -/
def spinRun : Nat → State
  | 0 => spin 1 0 false
  | k + 1 => spin 0 (k + 1) true

theorem spin_fetch (dt : Byte) (k : Nat) (b : Bool) (l : List LoopInput) :
    State.fetch { spin dt k b with inputs := l } = .ok 0x1200 :=
  show (spin 0 0 false).fetch = _ by decide

theorem spin_cycle (dt : Byte) (k : Nat) (b : Bool) (l : List LoopInput) :
    cycle { spin dt k b with inputs := l } = .next { spin dt k b with inputs := l } := by
  have hd : decodeWord 0x1200 = .jp 0x200 := by decide
  unfold cycle
  rw [spin_fetch, if_neg (by simp [spin, State.reset, State.init])]
  show exec (decodeWord 0x1200) _ = _
  rw [hd]
  rfl

theorem wit_FairTicksBringTheTimersToZero_run :
    FairTicks (fun _ => ⟨0, none, true⟩) ∧ RunsUnder (fun _ => ⟨0, none, true⟩) spinRun ∧ ∀ k, (spinRun k).running := by
  refine ⟨fun n => ⟨n, Nat.le_refl n, rfl⟩, fun k => ⟨[⟨0, none, true⟩], rfl, ?_⟩, fun k => by cases k <;> rfl⟩
  cases k <;> exact step_of_cycle rfl (spin_cycle _ _ _ _)
theorem wit_FairTicksBringTheTimersToZero_unwritten :
    ∀ k w x, (spinRun k).fetch = .ok w → decodeWord w ≠ .ldDtVx x ∧ decodeWord w ≠ .ldStVx x := by
  intro k w x h
  have hf : (spinRun k).fetch = .ok 0x1200 := by cases k <;> exact spin_fetch _ _ _ []
  rw [hf] at h
  cases h
  exact ⟨nofun, nofun⟩

theorem wit_FaultsArePrecise : State.reset.running ∧ ∃ t, exec .ret State.reset = .next t ∧ t.fatal = true :=
  ⟨rfl, _, rfl, rfl⟩
theorem wit_FatalExactlyOnTheFourConditions_stack :
    (∃ t, exec (.call 0x300) { State.reset with sp := 16 } = .next t ∧ t.fatal = true) ∧
    ∃ t, exec (.call 0x300) { State.reset with sp := 15 } = .next t ∧ t.fatal = false :=
  ⟨⟨_, rfl, rfl⟩, _, rfl, rfl⟩
theorem wit_FatalExactlyOnTheFourConditions_memory :
    (∃ t, exec (.ldB 0) { State.reset with i := 0x0FFE } = .next t ∧ t.fatal = true) ∧
    ∃ t, exec (.ldB 0) { State.reset with i := 0x0FFD } = .next t ∧ t.fatal = false :=
  ⟨⟨_, rfl, rfl⟩, _, rfl, rfl⟩
theorem wit_FatalExactlyOnTheFourConditions_key :
    (∃ t, exec (.skp 4) (withRegs State.reset [(4, 16)]) = .next t ∧ t.fatal = true) ∧
    ∃ t, exec (.skp 4) (withRegs State.reset [(4, 15)]) = .next t ∧ t.fatal = false :=
  ⟨⟨_, rfl, rfl⟩, _, rfl, rfl⟩
theorem wit_OnlyCallAndReturnTouchTheStack : (∃ t, exec (.jp 0x300) State.reset = .next t) ∧
    (∀ nnn, Instr.jp 0x300 ≠ .call nnn) ∧ Instr.jp 0x300 ≠ .ret := ⟨⟨_, rfl⟩, nofun, nofun⟩
theorem wit_SpecialRegistersHaveTheirWriters : (∃ t, exec (.ldMemVx 3) State.reset = .next t) ∧
    (∀ nnn, Instr.ldMemVx 3 ≠ .ldI nnn) ∧ (∀ x, Instr.ldMemVx 3 ≠ .addI x ∧ Instr.ldMemVx 3 ≠ .ldF x) ∧
    State.reset.cfg.qInci = false ∧ (∀ x, Instr.ldMemVx 3 ≠ .ldDtVx x) ∧ ∀ x, Instr.ldMemVx 3 ≠ .ldStVx x :=
  ⟨⟨_, rfl⟩, nofun, fun _ => ⟨nofun, nofun⟩, rfl, nofun, nofun⟩
theorem wit_NothingChangesTheConfiguration : (∃ t, step State.reset = .next t) ∧ ∃ t, exec (.jp 0x300) State.reset = .next t :=
  ⟨⟨_, rfl⟩, _, rfl⟩
theorem wit_EveryStepKeepsMemoryCanonical :
    State.MemCanonical { State.reset with mem := [(0x0A0, 1), (0xFFF, 2)] } ∧
    ∃ t, step { State.reset with mem := [(0x0A0, 1), (0xFFF, 2)] } = .next t := by
  refine ⟨?_, _, rfl⟩
  unfold State.MemCanonical
  decide
theorem wit_EveryStepKeepsTheRecordValid :
    State.FaultRecorded { State.reset with sp := 16 } ∧ ∃ t, step { State.reset with sp := 16 } = .next t := by
  refine ⟨?_, _, rfl⟩
  unfold State.FaultRecorded
  decide

end Sys2Proof.Tests
end

section
/-! PROOFS. The frame of every instruction, said once: the composition of frames, the frame of each shared operation, and
which registers and which parts of the state an instruction can write. -/

namespace Sys2Proof.Machine

/-! ### Composing frames -/

theorem Frame.trans {s t u : State} {regs regs' : List Reg} {parts parts' : List Part}
    (h : Frame s t regs parts) (h' : Frame t u regs' parts') : Frame s u (regs ++ regs') (parts ++ parts') where
  reg r hr := (h'.reg r fun hm => hr (List.mem_append_right _ hm)).trans
    (h.reg r fun hm => hr (List.mem_append_left _ hm))
  pc hp := (h'.pc fun hm => hp (List.mem_append_right _ hm)).trans (h.pc fun hm => hp (List.mem_append_left _ hm))
  index hp := (h'.index fun hm => hp (List.mem_append_right _ hm)).trans
    (h.index fun hm => hp (List.mem_append_left _ hm))
  stack hp := by
    obtain ⟨hs, hsp⟩ := h.stack fun hm => hp (List.mem_append_left _ hm)
    obtain ⟨hs', hsp'⟩ := h'.stack fun hm => hp (List.mem_append_right _ hm)
    exact ⟨hs'.trans hs, hsp'.trans hsp⟩
  display hp := by
    obtain ⟨hd, ho⟩ := h.display fun hm => hp (List.mem_append_left _ hm)
    obtain ⟨hd', ho'⟩ := h'.display fun hm => hp (List.mem_append_right _ hm)
    exact ⟨hd'.trans hd, ho'.trans ho⟩
  delay hp := (h'.delay fun hm => hp (List.mem_append_right _ hm)).trans
    (h.delay fun hm => hp (List.mem_append_left _ hm))
  sound hp := (h'.sound fun hm => hp (List.mem_append_right _ hm)).trans
    (h.sound fun hm => hp (List.mem_append_left _ hm))
  memory hp a := (h'.memory (fun hm => hp (List.mem_append_right _ hm)) a).trans
    (h.memory (fun hm => hp (List.mem_append_left _ hm)) a)
  keypad := h'.keypad.trans h.keypad
  fault := ⟨h'.fault.1.trans h.fault.1, h'.fault.2.trans h.fault.2⟩
  config := h'.config.trans h.config
  model := by
    obtain ⟨hin, hit, hst⟩ := h.model
    obtain ⟨hin', hit', hst'⟩ := h'.model
    exact ⟨hin'.trans hin, hit'.trans hit, hst'.trans hst⟩

/-- A frame that excepts more claims less. -/
theorem Frame.mono {s t : State} {regs regs' : List Reg} {parts parts' : List Part} (h : Frame s t regs parts)
    (hr : regs ⊆ regs') (hp : parts ⊆ parts') : Frame s t regs' parts' where
  reg r hn := h.reg r fun hm => hn (hr hm)
  pc hn := h.pc fun hm => hn (hp hm)
  index hn := h.index fun hm => hn (hp hm)
  stack hn := h.stack fun hm => hn (hp hm)
  display hn := h.display fun hm => hn (hp hm)
  delay hn := h.delay fun hm => hn (hp hm)
  sound hn := h.sound fun hm => hn (hp hm)
  memory hn := h.memory fun hm => hn (hp hm)
  keypad := h.keypad
  fault := h.fault
  config := h.config
  model := h.model

/-! ### The frames of the shared operations -/

theorem frame_clearDisplay (s : State) : Frame s s.clearDisplay [] [.display] := by constructor <;> simp

theorem frame_withDelay (s : State) (u : Byte) : Frame s { s with dt := u } [] [.delay] := by
  constructor <;> simp [State.reg, State.readByte]

theorem frame_withSound (s : State) (u : Byte) : Frame s { s with st := u } [] [.sound] := by
  constructor <;> simp [State.reg, State.readByte]

theorem frame_push {s t : State} {a : Word} (h : s.push a = some t) : Frame s t [] [.stack] := by
  unfold State.push at h
  split at h
  · obtain rfl := Option.some.inj h
    constructor <;> simp [State.reg, State.readByte]
  · cases h

theorem frame_pop {s t : State} {a : Word} (h : s.pop = some (a, t)) : Frame s t [] [.stack] := by
  unfold State.pop at h
  split at h
  · obtain ⟨-, rfl⟩ := Prod.mk.inj (Option.some.inj h)
    constructor <;> simp [State.reg, State.readByte]
  · cases h

/-- An update of MEM alone. -/
theorem frame_withMem (s : State) (m : Memory) : Frame s { s with mem := m } [] [.memory] := by
  constructor <;> simp [State.reg]

theorem frame_writeBytes (s : State) (a : Nat) (us : List Byte) : Frame s (s.writeBytes a us) [] [.memory] := by
  rw [writeBytes_eq]
  exact frame_withMem s _

theorem frame_storeRegs (s : State) (base n : Nat) : Frame s (s.storeRegs base n) [] [.memory] := by
  rw [storeRegs_eq]
  exact frame_withMem s _

theorem mem_regsUpTo (x r : Reg) : r ∈ regsUpTo x ↔ r.toNat ≤ x.toNat := by
  unfold regsUpTo
  simp only [List.mem_map, List.mem_range]
  constructor
  · rintro ⟨k, hk, rfl⟩
    rw [BitVec.toNat_ofNat]
    exact (Nat.mod_le _ _).trans (Nat.le_of_lt_succ hk)
  · exact fun h => ⟨r.toNat, Nat.lt_succ_of_le h, by simp⟩

/-- An update of V alone excepts the registers that differ. -/
theorem frame_withV {s : State} {v : Vector Byte 16} {regs : List Reg}
    (h : ∀ r, r ∉ regs → State.reg { s with v := v } r = s.reg r) : Frame s { s with v := v } regs [] := by
  refine ⟨h, ?_, ?_, ?_, ?_, ?_, ?_, ?_, rfl, ⟨rfl, rfl⟩, rfl, rfl, rfl, rfl⟩ <;> simp [State.readByte]

theorem frame_loadRegs (s : State) (base : Nat) (x : Reg) :
    Frame s (s.loadRegs base (x.toNat + 1)) (regsUpTo x) [] := by
  have hreg : ∀ r, r ∉ regsUpTo x → (s.loadRegs base (x.toNat + 1)).reg r = s.reg r := fun r hr => by
    rw [loadRegs_reg _ _ _ (by omega), if_neg fun hlt => hr ((mem_regsUpTo x r).2 (Nat.le_of_lt_succ hlt))]
  rw [loadRegs_eq] at hreg ⊢
  exact frame_withV hreg

/-- The parts the update of `I` after a block transfer writes (R124, R125). -/
def bumpParts (cfg : Config) : List Part := if cfg.qInci then [.index] else []

theorem frame_bumpI (s : State) (n : Nat) : Frame s (s.bumpI n) [] (bumpParts s.cfg) := by
  unfold State.bumpI bumpParts
  split
  · exact frame_setI s _
  · exact frame_refl s

/-- A sprite leaves VF at 1 where one of its pixels was on before and at 0 otherwise, and no other register changed
(R132, R134). -/
theorem blit_reg (s : State) {ps : List (Fin 64 × Fin 32)} (hn : ps.Nodup) (r : Reg) :
    (s.blit ps).reg r = if r = 15 then if ∃ p ∈ ps, s.pixel p.1 p.2 then 1 else 0 else s.reg r := by
  obtain ⟨-, hreg, -⟩ := fold_plot ps hn (s.setFlag false)
  unfold State.blit
  rw [hreg, setFlag_reg]
  by_cases hr : r = 15
  · simp only [hr, true_and, setFlag_pixel, if_true]
    rfl
  · simp only [hr, false_and, if_false]

theorem frame_blit (s : State) {ps : List (Fin 64 × Fin 32)} (hn : ps.Nodup) :
    Frame s (s.blit ps) [15] [.display] := by
  have hreg : ∀ r, r ∉ [15] → (s.blit ps).reg r = s.reg r := fun r hr => by
    rw [blit_reg s hn, if_neg (by simpa using hr)]
  rw [blit_eq] at hreg ⊢
  constructor <;> simp [State.readByte]
  simpa using hreg

/-! ### The frame of every instruction -/

/-- The registers an instruction can write: its destinations, and VF for the seven flag writers (10_state.md R11, R12). -/
def writtenRegs (i : Instr) : List Reg := destRegs i ++ if writesFlag i then [15] else []

/-- The parts of the state an instruction can write, faults apart (10_state.md R13 to R21). -/
def writtenParts (cfg : Config) : Instr → List Part
  | .cls | .drw _ _ _ => [.display]
  | .ret | .call _ => [.stack, .pc]
  | .jp _ | .jpV0 _ | .seImm _ _ | .sneImm _ _ | .seReg _ _ | .sneReg _ _ | .skp _ | .sknp _ | .ldVxK _ => [.pc]
  | .ldI _ | .addI _ | .ldF _ => [.index]
  | .ldB _ => [.memory]
  | .ldMemVx _ => .memory :: bumpParts cfg
  | .ldVxMem _ => bumpParts cfg
  | .ldDtVx _ => [.delay]
  | .ldStVx _ => [.sound]
  | _ => []

/-- FX0A waits or takes the key: either way VX and `PC` are all it writes (R142). -/
theorem execLdVxK_frame (x : Reg) (s : State) : ∃ t, execLdVxK x s = .next t ∧ Frame s t [x] [.pc] := by
  unfold execLdVxK
  split
  · exact ⟨_, rfl, (frame_setPc s _).mono (by simp) (by simp)⟩
  · exact ⟨_, rfl, (((frame_setPc s _).trans (frame_setReg _ x _)).trans (frame_setPc _ _)).mono (by simp) (by simp)⟩

/-- What running an instruction changes: it raises the cause that is its own, with nothing but FATAL and FREC changed, or it
keeps everything outside its registers and its parts. -/
theorem exec_frame (i : Instr) (s : State) :
    (∃ c info, possibleCause i = some c ∧ exec i s = .next (faulted s c (encode i) info)) ∨
      ∃ t, exec i s = .next t ∧ Frame s t (writtenRegs i) (writtenParts s.cfg i) := by
  cases i
  case cls => exact .inr ⟨_, rfl, frame_clearDisplay s⟩
  case ret =>
    simp only [exec, execRet]
    split
    · exact .inl ⟨_, _, rfl, rfl⟩
    · next hpop => exact .inr ⟨_, rfl, (frame_pop hpop).trans (frame_setPc _ _)⟩
  case call nnn =>
    simp only [exec, execCall]
    split
    · exact .inl ⟨_, _, rfl, rfl⟩
    · next hpush => exact .inr ⟨_, rfl, (frame_push hpush).trans (frame_setPc _ _)⟩
  case sys | reserved5 | reserved8 | reserved9 | reservedE | reservedF => exact .inr ⟨_, rfl, frame_refl s⟩
  case jp | jpV0 | seImm | sneImm | seReg | sneReg => exact .inr ⟨_, rfl, frame_setPc s _⟩
  case ldImm | addImm | ldReg | orReg | andReg | xorReg | rnd | ldVxDt => exact .inr ⟨_, rfl, frame_setReg s _ _⟩
  case addReg | sub | shr | subn | shl => exact .inr ⟨_, rfl, frame_setRegFlag s _ _ _⟩
  case ldI | ldF => exact .inr ⟨_, rfl, frame_setI s _⟩
  case addI x => exact .inr ⟨_, rfl, (frame_setI s _).trans (frame_setFlag _ _)⟩
  case ldDtVx x => exact .inr ⟨_, rfl, frame_withDelay s _⟩
  case ldStVx x => exact .inr ⟨_, rfl, frame_withSound s _⟩
  case ldVxK x => exact .inr (execLdVxK_frame x s)
  case drw x y n =>
    simp only [exec, execDrw]
    split
    · exact .inl ⟨_, _, rfl, rfl⟩
    · exact .inr ⟨_, rfl, frame_blit s (nodup_spritePixels ..)⟩
  case skp x =>
    simp only [exec, execSkp]
    split
    · exact .inl ⟨_, _, rfl, rfl⟩
    · exact .inr ⟨_, rfl, frame_skipIf s _⟩
  case sknp x =>
    simp only [exec, execSknp]
    split
    · exact .inl ⟨_, _, rfl, rfl⟩
    · exact .inr ⟨_, rfl, frame_skipIf s _⟩
  case ldB x =>
    simp only [exec, execLdB]
    split
    · exact .inl ⟨_, _, rfl, rfl⟩
    · exact .inr ⟨_, rfl, frame_writeBytes s _ _⟩
  case ldMemVx x =>
    simp only [exec, execLdMemVx]
    split
    · exact .inl ⟨_, _, rfl, rfl⟩
    · have hstore := frame_storeRegs s s.i.toNat (x.toNat + 1)
      exact .inr ⟨_, rfl, hstore.trans (hstore.config ▸ frame_bumpI _ _)⟩
  case ldVxMem x =>
    simp only [exec, execLdVxMem]
    split
    · exact .inl ⟨_, _, rfl, rfl⟩
    · have hload := frame_loadRegs s s.i.toNat x
      exact .inr ⟨_, rfl, hload.trans (hload.config ▸ frame_bumpI _ _)⟩

/-- The next state an instruction gives: the state of its fault, or one that its frame bounds. -/
theorem frame_of_exec {i : Instr} {s t : State} (h : exec i s = .next t) :
    (∃ c info, possibleCause i = some c ∧ t = faulted s c (encode i) info) ∨
      Frame s t (writtenRegs i) (writtenParts s.cfg i) := by
  rcases exec_frame i s with ⟨c, info, hc, hf⟩ | ⟨u, hu, hframe⟩
  · exact .inl ⟨c, info, hc, Host.Outcome.next.inj (h.symm.trans hf)⟩
  · obtain rfl := Host.Outcome.next.inj (h.symm.trans hu)
    exact .inr hframe

/-! ### Who writes each part -/

theorem stack_mem_writtenParts {cfg : Config} {i : Instr} (h : .stack ∈ writtenParts cfg i) :
    (∃ nnn, i = .call nnn) ∨ i = .ret := by
  cases i <;> simp_all [writtenParts, bumpParts]

theorem display_mem_writtenParts {cfg : Config} {i : Instr} (h : .display ∈ writtenParts cfg i) :
    i = .cls ∨ ∃ x y n, i = .drw x y n := by
  cases i <;> simp_all [writtenParts, bumpParts]

theorem index_mem_writtenParts {cfg : Config} {i : Instr} (h : .index ∈ writtenParts cfg i) :
    (∃ nnn, i = .ldI nnn) ∨ (∃ x, i = .addI x ∨ i = .ldF x) ∨
      cfg.qInci = true ∧ ∃ x, i = .ldMemVx x ∨ i = .ldVxMem x := by
  cases i <;> simp_all [writtenParts, bumpParts]

theorem delay_mem_writtenParts {cfg : Config} {i : Instr} (h : .delay ∈ writtenParts cfg i) : ∃ x, i = .ldDtVx x := by
  cases i <;> simp_all [writtenParts, bumpParts]

theorem sound_mem_writtenParts {cfg : Config} {i : Instr} (h : .sound ∈ writtenParts cfg i) : ∃ x, i = .ldStVx x := by
  cases i <;> simp_all [writtenParts, bumpParts]

end Sys2Proof.Machine
end

section
/-! PROOFS. Who writes each piece of state: the frame rules of 10_state.md, from the frame of every instruction. -/

namespace Sys2Proof.Machine

/-! ### The flag writers (10_state.md R12) -/

/-- VF holds a flag. -/
def State.VfIsFlag (s : State) : Prop := s.reg 15 = 0 ∨ s.reg 15 = 1

theorem setFlag_vfIsFlag (s : State) (b : Bool) : (s.setFlag b).VfIsFlag := by
  unfold State.VfIsFlag
  rw [setFlag_reg, if_pos rfl]
  cases b
  · exact .inl rfl
  · exact .inr rfl

theorem setRegFlag_vfIsFlag (s : State) (x : Reg) (u : Byte) (b : Bool) : (s.setRegFlag x u b).VfIsFlag :=
  setFlag_vfIsFlag _ b

theorem blit_vfIsFlag (s : State) {ps : List (Fin 64 × Fin 32)} (hn : ps.Nodup) : (s.blit ps).VfIsFlag := by
  unfold State.VfIsFlag
  rw [blit_reg s hn, if_pos rfl]
  split
  · exact .inr rfl
  · exact .inl rfl

/-- A flag writer that does not fault leaves a flag in VF; of the seven, DXYN alone can fault. -/
theorem vfIsFlag_of_exec {i : Instr} {s t : State} (h : exec i s = .next t) (hw : writesFlag i = true)
    (hr : t.running) : t.VfIsFlag := by
  cases i with
  | addReg | sub | shr | subn | shl =>
    obtain rfl := Host.Outcome.next.inj h
    exact setRegFlag_vfIsFlag ..
  | addI x =>
    obtain rfl := Host.Outcome.next.inj h
    exact setFlag_vfIsFlag ..
  | drw x y n =>
    simp only [exec, execDrw] at h
    split at h
    · obtain rfl := Host.Outcome.next.inj h
      exact absurd hr (by simp [State.running])
    · obtain rfl := Host.Outcome.next.inj h
      exact blit_vfIsFlag s (nodup_spritePixels ..)
  | _ => cases hw

/-- Every register outside those an instruction can write stays, faults included. -/
theorem reg_of_exec {i : Instr} {s t : State} (h : exec i s = .next t) {r : Reg} (hr : r ∉ writtenRegs i) :
    t.reg r = s.reg r := by
  rcases frame_of_exec h with ⟨c, info, -, rfl⟩ | hframe
  · rfl
  · exact hframe.reg r hr

theorem notMem_writtenRegs {i : Instr} {r : Reg} (hd : r ∉ destRegs i) (hf : writesFlag i = true → r ≠ 15) :
    r ∉ writtenRegs i := by
  unfold writtenRegs
  intro hm
  rcases List.mem_append.1 hm with hm | hm
  · exact hd hm
  · split at hm
    · next hw => exact hf hw (List.mem_singleton.1 hm)
    · cases hm

/-- Settles O27: the flag writers by `vfIsFlag_of_exec`, all other registers by the frame of the instruction. -/
theorem vfIsWrittenByTheSevenFlagWriters : Obligations.VfIsWrittenByTheSevenFlagWriters := by
  intro i s t h
  refine ⟨vfIsFlag_of_exec h, fun hw hd => ?_, fun r hr hd => ?_⟩
  · exact reg_of_exec h (notMem_writtenRegs hd fun hw' => absurd (hw.symm.trans hw') Bool.false_ne_true)
  · exact reg_of_exec h (notMem_writtenRegs hd fun _ => hr)

/-! ### The other parts -/

/-- Settles O43. -/
theorem onlyDrawAndClearTouchTheDisplay : Obligations.OnlyDrawAndClearTouchTheDisplay := by
  intro i s t h hcls hdrw
  rcases frame_of_exec h with ⟨c, info, -, rfl⟩ | hframe
  · exact ⟨rfl, rfl⟩
  · refine hframe.display fun hm => ?_
    rcases display_mem_writtenParts hm with hi | ⟨x, y, n, hi⟩
    · exact hcls hi
    · exact hdrw x y n hi

/-- Settles O54. -/
theorem onlyCallAndReturnTouchTheStack : Obligations.OnlyCallAndReturnTouchTheStack := by
  intro i s t h hcall hret
  rcases frame_of_exec h with ⟨c, info, -, rfl⟩ | hframe
  · exact ⟨rfl, rfl⟩
  · refine hframe.stack fun hm => ?_
    rcases stack_mem_writtenParts hm with ⟨nnn, hi⟩ | hi
    · exact hcall nnn hi
    · exact hret hi

/-- Settles O55. -/
theorem specialRegistersHaveTheirWriters : Obligations.SpecialRegistersHaveTheirWriters := by
  intro i s t h
  rcases frame_of_exec h with ⟨c, info, -, rfl⟩ | hframe
  · exact ⟨fun _ _ _ => rfl, fun _ => rfl, fun _ => rfl, rfl⟩
  · refine ⟨fun hldI hadd hblock => hframe.index fun hm => ?_, fun hdt => hframe.delay fun hm => ?_,
      fun hst => hframe.sound fun hm => ?_, hframe.keypad⟩
    · rcases index_mem_writtenParts hm with ⟨nnn, hi⟩ | ⟨x, hi⟩ | ⟨hq, x, hi⟩
      · exact hldI nnn hi
      · exact not_or.2 (hadd x) hi
      · rcases hblock with hq' | hblock
        · exact Bool.false_ne_true (hq'.symm.trans hq)
        · exact not_or.2 (hblock x) hi
    · obtain ⟨x, hi⟩ := delay_mem_writtenParts hm
      exact hdt x hi
    · obtain ⟨x, hi⟩ := sound_mem_writtenParts hm
      exact hst x hi

end Sys2Proof.Machine
end

section
/-! PROOFS. What every step keeps of the configuration and the fault record, and the state at reset. -/

namespace Sys2Proof.Machine

/-! ### Steps -/

/-- The ways a step ends: nothing happens in FATAL; while running, the fetch faults or an instruction runs, and the gap
follows (R80, R81, R155, R173). -/
theorem step_next_cases {s t : State} (h : step s = .next t) :
    (s.fatal = true ∧ t = s) ∨
      s.fatal = false ∧ ∃ u, t = u.gap s.input ∧
        ((∃ e, u = s.enterFatal { cause := .memoryBounds, addr := s.pc, op := 0, info := e }) ∨
          ∃ i, exec i s.advance = .next u) := by
  rcases step_cases h with hfatal | ⟨hrun, u, hu, rfl⟩
  · exact .inl hfatal
  · refine .inr ⟨hrun, u, rfl, ?_⟩
    rcases cycle_cases hrun with ⟨e, -, hc⟩ | ⟨w, -, hc⟩
    · exact .inl ⟨e, Host.Outcome.next.inj (hu.symm.trans hc)⟩
    · exact .inr ⟨decodeWord w, hc.symm.trans hu⟩

@[simp] theorem gap_cfg (s : State) (e : LoopInput) : (s.gap e).cfg = s.cfg := by
  rw [gap_eq]
  split <;> rfl

@[simp] theorem gap_fatal (s : State) (e : LoopInput) : (s.gap e).fatal = s.fatal := by
  rw [gap_eq]
  split <;> rfl

@[simp] theorem gap_frec (s : State) (e : LoopInput) : (s.gap e).frec = s.frec := by
  rw [gap_eq]
  split <;> rfl

/-! ### The configuration (10_state.md R23) -/

theorem cfg_of_exec {i : Instr} {s t : State} (h : exec i s = .next t) : t.cfg = s.cfg := by
  rcases frame_of_exec h with ⟨c, info, -, rfl⟩ | hframe
  · rfl
  · exact hframe.config

theorem cfg_of_step {s t : State} (h : step s = .next t) : t.cfg = s.cfg := by
  rcases step_next_cases h with ⟨-, rfl⟩ | ⟨-, u, rfl, ⟨e, rfl⟩ | ⟨i, hi⟩⟩
  · rfl
  · rw [gap_cfg, enterFatal_cfg]
  · rw [gap_cfg, cfg_of_exec hi, advance_cfg]

/-- Settles O56. -/
theorem nothingChangesTheConfiguration : Obligations.NothingChangesTheConfiguration :=
  ⟨fun _ _ => cfg_of_step, fun _ _ _ => cfg_of_exec, fun _ => rfl⟩

/-! ### The fault record (10_state.md R24) -/

/-- No instruction raises the model's own `noCause` (R152). -/
theorem noCause_not_possible (i : Instr) : possibleCause i ≠ some .noCause := by
  cases i <;> simp [possibleCause]

theorem faultRecorded_congr {s t : State} (hfatal : t.fatal = s.fatal) (hfrec : t.frec = s.frec) :
    t.FaultRecorded ↔ s.FaultRecorded := by
  unfold State.FaultRecorded
  rw [hfatal, hfrec]

/-- An instruction that faults records its own cause; one that does not leaves FATAL and FREC alone. -/
theorem faultRecorded_of_exec {i : Instr} {s t : State} (hs : s.FaultRecorded) (h : exec i s = .next t) :
    t.FaultRecorded := by
  rcases frame_of_exec h with ⟨c, info, hc, rfl⟩ | hframe
  · rintro - rfl
    exact noCause_not_possible i hc
  · exact (faultRecorded_congr hframe.fault.1 hframe.fault.2).2 hs

/-- Settles O58, by the ways a step ends. -/
theorem everyStepKeepsTheRecordValid : Obligations.EveryStepKeepsTheRecordValid := by
  intro s t hs h
  rcases step_next_cases h with ⟨-, rfl⟩ | ⟨-, u, rfl, hu⟩
  · exact hs
  · refine (faultRecorded_congr (gap_fatal u _) (gap_frec u _)).2 ?_
    rcases hu with ⟨e, rfl⟩ | ⟨i, hi⟩
    · exact fun _ => Cause.noConfusion
    · exact faultRecorded_of_exec ((faultRecorded_congr (advance_fatal s) (advance_frec s)).2 hs) hi

/-! ### The state at reset (10_state.md R27, R28) -/

/-- At reset every byte of MEM reads as its reset contents. -/
theorem readByte_init (cfg : Config) {a : Nat} (ha : a < 4096) :
    (State.init cfg).readByte a = unlisted cfg.font a := by
  unfold State.readByte
  rw [show (State.init cfg).cfg = cfg from rfl, effAddr_small cfg ha]
  rfl

/-- The font bytes stand at 0x050 and up (R28). -/
theorem unlisted_font (font : Font) (k : Nat) (hk : k < 80) : unlisted font (0x050 + k) = font[k] := by
  unfold unlisted
  rw [dif_pos ⟨by omega, by omega⟩]
  simp only [Nat.add_sub_cancel_left]

theorem init_reg (cfg : Config) (r : Reg) : (State.init cfg).reg r = 0 := Vector.getElem_replicate _

theorem init_pixel (cfg : Config) (x : Fin 64) (y : Fin 32) : (State.init cfg).pixel x y = false := by
  unfold State.pixel
  rw [show (State.init cfg).disp = Vector.replicate 32 0 from rfl, Vector.getElem_replicate]
  exact BitVec.getLsbD_zero

theorem isResetState_init (cfg : Config) : IsResetState cfg (State.init cfg) := by
  refine ⟨fun a ha => ?_, init_reg cfg, rfl, rfl, fun k => Vector.getElem_replicate _, rfl, init_pixel cfg,
    rfl, rfl, rfl, rfl, rfl⟩
  rw [readByte_init cfg ha]
  unfold unlisted
  by_cases h : 0x050 ≤ a ∧ a < 0x0A0
  · rw [dif_pos h, dif_pos ⟨h.1, by omega⟩]
  · rw [dif_neg h, dif_neg (by omega)]

/-- `reset()` leaves the reset state: the fields it keeps are none of the table's. -/
theorem isResetState_hostReset (s : State) : IsResetState s.cfg s.hostReset := isResetState_init s.cfg

/-- Settles O1. -/
theorem resetLeavesTheResetState : Obligations.ResetLeavesTheResetState :=
  ⟨isResetState_init, fun s => ⟨isResetState_hostReset s, rfl, rfl, rfl⟩, rfl, rfl, rfl⟩

/-- A font the source allows begins with glyph 0 (R28, D16). -/
theorem font_getElem_of_valid {cfg : Config} (h : cfg.valid = true) (j : Fin 5) :
    cfg.font[j.val] = Config.glyph0[j.val]'j.isLt := by
  have htake : cfg.font.toList.take 5 = Config.glyph0 := eq_of_beq h
  have hget : (cfg.font.toList.take 5)[j.val]? = Config.glyph0[j.val]? := by rw [htake]
  rw [List.getElem?_take_of_lt j.isLt, List.getElem?_eq_getElem (by simp; omega),
    List.getElem?_eq_getElem j.isLt] at hget
  exact Option.some.inj hget

/-- Settles O2. -/
theorem glyphZeroIsInstalled : Obligations.GlyphZeroIsInstalled := by
  intro cfg hvalid j
  rw [readByte_init cfg (by omega), unlisted_font _ _ (by omega)]
  exact font_getElem_of_valid hvalid j

/-- Settles O59: nothing is listed, no event has been emitted, and FATAL is 0. -/
theorem invariantsHoldAtReset : Obligations.InvariantsHoldAtReset :=
  fun _ => ⟨⟨List.Pairwise.nil, nofun⟩, rfl, nofun⟩

end Sys2Proof.Machine
end

section
/-! PROOFS. Memory (20_memory.md): the fetch, the load, a read after a write, and the canonical form that every step
keeps. -/

namespace Sys2Proof.Machine

/-! ### The addresses an access reaches (20_memory.md R44) -/

/-- Under `wrap` every access reaches a byte of MEM, and under `fault` one inside MEM does. -/
theorem effAddr_lt_memSize {cfg : Config} {a : Nat} (h : cfg.oobPolicy = .wrap ∨ a ≤ 0xFFF) :
    effAddr cfg a < memSize := by
  rcases h with hwrap | ha
  · unfold effAddr
    rw [hwrap]
    exact Nat.mod_lt _ (by decide)
  · rw [effAddr_small cfg (Nat.lt_succ_of_le ha)]
    exact Nat.lt_succ_of_le ha

/-- Settles O36. -/
theorem readReturnsTheLatestWrite : Obligations.ReadReturnsTheLatestWrite :=
  fun s a b u h => readByte_writeByte s a b u (effAddr_lt_memSize h)

/-! ### The fetch (20_memory.md R41, R42) -/

/-- The fetch out of bounds fails with the lowest bad address (R44, R155). -/
theorem fetch_error {s : State} (h : ¬InBounds s.cfg s.pc 2) : s.fetch = .error (lowestBad s.pc) := by
  unfold State.fetch
  rw [firstBad_some h]

/-- Settles O4: `fetch_ok` in bounds, `fetch_error` above. -/
theorem fetchIsBigEndian : Obligations.FetchIsBigEndian := by
  intro s
  refine ⟨fun h => ⟨_, fetch_ok h, wordOfBytes_toNat _ _⟩, fun hpolicy hpc => fetch_error ?_⟩
  rintro (hwrap | hzero | hle)
  · exact absurd (hpolicy.symm.trans hwrap) (by decide)
  · exact absurd hzero (by decide)
  · omega

/-! ### The load (20_memory.md R52) -/

/-- A load inside its contract writes the rom from 0x200 up. -/
theorem hostLoad_next {s : State} {bytes : List Byte} (hlen : bytes.length ≤ 3584) (hs : s.started = false) :
    s.hostLoad bytes = .next (s.writeBytes 0x200 bytes) := if_pos ⟨hlen, hs⟩

/-- Settles O3: a load is `writeBytes` at 0x200, and no address of the rom wraps. -/
theorem loadCopiesTheRom : Obligations.LoadCopiesTheRom := by
  intro s bytes
  refine ⟨fun hlen hs => ⟨_, hostLoad_next hlen hs, ?_⟩, fun hbad => if_neg ?_⟩
  · have hrom : ∀ k, k < bytes.length → effAddr s.cfg (0x200 + k) = 0x200 + k := fun k hk =>
      effAddr_small s.cfg (by omega)
    obtain ⟨hwritten, hother⟩ := writeBytes_readByte s 0x200 bytes (by omega) fun k hk => by
      rw [hrom k hk, memSize]
      omega
    refine ⟨hwritten, fun a ha hout => hother a fun k hk => ?_, writeBytes_eq s 0x200 bytes⟩
    rw [effAddr_small s.cfg ha, hrom k hk]
    omega
  · rintro ⟨hlen, hs⟩
    rcases hbad with hlong | hstarted
    · exact absurd hlen (Nat.not_le_of_lt hlong)
    · exact Bool.false_ne_true (hs.symm.trans hstarted)

/-! ### The block store, then the fetch (20_memory.md R51) -/

/-- FX55 in bounds (42_index_memory.md R124, R126). -/
theorem exec_ldMemVx_inBounds {s : State} {x : Reg} (h : InBounds s.cfg s.i (x.toNat + 1)) :
    exec (.ldMemVx x) s = .next ((s.storeRegs s.i.toNat (x.toNat + 1)).bumpI (x.toNat + 1)) := by
  simp only [exec, execLdMemVx, firstBad_none h]

@[simp] theorem bumpI_mem (s : State) (n : Nat) : (s.bumpI n).mem = s.mem := by rw [bumpI_eq, setI_mem]

@[simp] theorem bumpI_cfg (s : State) (n : Nat) : (s.bumpI n).cfg = s.cfg := by rw [bumpI_eq, setI_cfg]

@[simp] theorem bumpI_readByte (s : State) (n a : Nat) : (s.bumpI n).readByte a = s.readByte a := by
  rw [bumpI_eq, setI_readByte]

/-- The fetch at an address in bounds, wherever `PC` stood before. -/
theorem fetch_setPc {s : State} {a : Word} (h : InBounds s.cfg a 2) :
    (s.setPc a).fetch = .ok (wordOfBytes (s.readByte a.toNat) (s.readByte (a.toNat + 1))) :=
  fetch_ok (s := s.setPc a) h

/-- Settles O37: the fetch reads the two bytes that `storeRegs` leaves at I and I + 1. -/
theorem storedWordIsFetched : Obligations.StoredWordIsFetched := by
  intro s h
  refine ⟨_, exec_ldMemVx_inBounds (x := 1) h, ?_⟩
  obtain ⟨hstored, -⟩ := storeRegs_readByte s s.i.toNat 2 (by decide) fun k => effAddr_lt h
  have hhigh : (s.storeRegs s.i.toNat 2).readByte s.i.toNat = s.reg 0 := hstored 0 (by decide)
  have hlow : (s.storeRegs s.i.toNat 2).readByte (s.i.toNat + 1) = s.reg 1 := hstored 1 (by decide)
  have hcfg : ((s.storeRegs s.i.toNat 2).bumpI 2).cfg = s.cfg := by rw [bumpI_cfg, storeRegs_cfg]
  calc (((s.storeRegs s.i.toNat 2).bumpI 2).setPc s.i).fetch
    _ = .ok (wordOfBytes _ _) := fetch_setPc (hcfg ▸ h)
    _ = .ok (wordOfBytes (s.reg 0) (s.reg 1)) := by rw [bumpI_readByte, bumpI_readByte, hhigh, hlow]

/-! ### What each operation keeps of MEM -/

@[simp] theorem blit_mem (s : State) (ps : List (Fin 64 × Fin 32)) : (s.blit ps).mem = s.mem := by rw [blit_eq]

@[simp] theorem loadRegs_mem (s : State) (base n : Nat) : (s.loadRegs base n).mem = s.mem := by rw [loadRegs_eq]

@[simp] theorem gap_mem (s : State) (e : LoopInput) : (s.gap e).mem = s.mem := by
  rw [gap_eq]
  split <;> rfl

/-- What running an instruction does to MEM: FX33 stores the digits and FX55 the registers, and in every other case, faults
included, MEM stays as it is (R53, 70_reset_and_hazards.md R181). -/
theorem exec_mem (i : Instr) (s : State) : ∃ t, exec i s = .next t ∧
    (t.mem = s.mem ∨
      (∃ x, i = .ldB x ∧ t = s.writeBytes s.i.toNat (decimalDigits (s.reg x))) ∨
      ∃ x, i = .ldMemVx x ∧ t = (s.storeRegs s.i.toNat (x.toNat + 1)).bumpI (x.toNat + 1)) := by
  cases i
  case ldB x =>
    simp only [exec, execLdB]
    split
    · exact ⟨_, rfl, .inl rfl⟩
    · exact ⟨_, rfl, .inr (.inl ⟨x, rfl, rfl⟩)⟩
  case ldMemVx x =>
    simp only [exec, execLdMemVx]
    split
    · exact ⟨_, rfl, .inl rfl⟩
    · exact ⟨_, rfl, .inr (.inr ⟨x, rfl, rfl⟩)⟩
  case ret =>
    by_cases hsp : 0 < s.sp.val
    · simp only [exec, execRet, pop_of_pos s hsp]
      exact ⟨_, rfl, .inl rfl⟩
    · simp only [exec, execRet, pop_of_empty s (Nat.eq_zero_of_not_pos hsp)]
      exact ⟨_, rfl, .inl rfl⟩
  case call nnn =>
    by_cases hsp : s.sp.val < 16
    · simp only [exec, execCall, push_of_lt s _ hsp]
      exact ⟨_, rfl, .inl rfl⟩
    · simp only [exec, execCall, push_of_full s _ (by omega)]
      exact ⟨_, rfl, .inl rfl⟩
  case drw x y n =>
    simp only [exec, execDrw]
    split
    · exact ⟨_, rfl, .inl rfl⟩
    · exact ⟨_, rfl, .inl (blit_mem _ _)⟩
  case ldVxMem x =>
    simp only [exec, execLdVxMem]
    split
    · exact ⟨_, rfl, .inl rfl⟩
    · exact ⟨_, rfl, .inl ((bumpI_mem _ _).trans (loadRegs_mem _ _ _))⟩
  case skp | sknp | ldVxK =>
    simp only [exec, execSkp, execSknp, execLdVxK]
    split
    · exact ⟨_, rfl, .inl rfl⟩
    · exact ⟨_, rfl, .inl rfl⟩
  all_goals exact ⟨_, rfl, .inl rfl⟩

/-! ### The canonical form (20_memory.md R40, R46) -/

/-- The canonical form speaks of MEM and the font only. -/
theorem memCanonical_congr {s t : State} (hmem : t.mem = s.mem) (hcfg : t.cfg = s.cfg) :
    t.MemCanonical ↔ s.MemCanonical := by
  unfold State.MemCanonical
  rw [hmem, hcfg]

theorem memCanonical_of_exec {i : Instr} {s t : State} (hs : s.MemCanonical) (h : exec i s = .next t) :
    t.MemCanonical := by
  obtain ⟨u, hu, hcases⟩ := exec_mem i s
  obtain rfl := Host.Outcome.next.inj (h.symm.trans hu)
  rcases hcases with hmem | ⟨x, -, rfl⟩ | ⟨x, -, rfl⟩
  · exact (memCanonical_congr hmem (cfg_of_exec h)).2 hs
  · exact writeBytes_canonical _ _ hs
  · exact (memCanonical_congr (bumpI_mem _ _) (bumpI_cfg _ _)).2 (storeRegs_canonical _ _ hs)

/-- Settles O57, by the ways a step ends. -/
theorem everyStepKeepsMemoryCanonical : Obligations.EveryStepKeepsMemoryCanonical := by
  intro s t hs h
  rcases step_next_cases h with ⟨-, rfl⟩ | ⟨-, u, rfl, hu⟩
  · exact hs
  · refine (memCanonical_congr (gap_mem u _) (gap_cfg u _)).2 ?_
    rcases hu with ⟨e, rfl⟩ | ⟨i, hi⟩
    · exact hs
    · exact memCanonical_of_exec ((memCanonical_congr (advance_mem s) (advance_cfg s)).2 hs) hi

end Sys2Proof.Machine
end

section
/-! PROOFS. The encoding (30_encoding.md): the fields of an encoded word, the decoder and the encoder as inverses, the
first-match order of the opcode table, and the reserved words. -/

namespace Sys2Proof

/-! ### The fields of a word in a format (R61) -/

@[simp] theorem fieldOp_formatNNN (op : BitVec 4) (nnn : Addr12) : fieldOp (formatNNN op nnn) = op :=
  (fields_formatNNN op nnn).1

@[simp] theorem fieldNNN_formatNNN (op : BitVec 4) (nnn : Addr12) : fieldNNN (formatNNN op nnn) = nnn :=
  (fields_formatNNN op nnn).2

@[simp] theorem fieldOp_formatXNN (op : BitVec 4) (x : Reg) (nn : Byte) : fieldOp (formatXNN op x nn) = op :=
  (fields_formatXNN op x nn).1

@[simp] theorem fieldX_formatXNN (op : BitVec 4) (x : Reg) (nn : Byte) : fieldX (formatXNN op x nn) = x :=
  (fields_formatXNN op x nn).2.1

@[simp] theorem fieldNN_formatXNN (op : BitVec 4) (x : Reg) (nn : Byte) : fieldNN (formatXNN op x nn) = nn :=
  (fields_formatXNN op x nn).2.2

@[simp] theorem fieldOp_formatXYN (op : BitVec 4) (x y : Reg) (n : Nibble) : fieldOp (formatXYN op x y n) = op :=
  (fields_formatXYN op x y n).1

@[simp] theorem fieldX_formatXYN (op : BitVec 4) (x y : Reg) (n : Nibble) : fieldX (formatXYN op x y n) = x :=
  (fields_formatXYN op x y n).2.1

@[simp] theorem fieldY_formatXYN (op : BitVec 4) (x y : Reg) (n : Nibble) : fieldY (formatXYN op x y n) = y :=
  (fields_formatXYN op x y n).2.2.1

@[simp] theorem fieldN_formatXYN (op : BitVec 4) (x y : Reg) (n : Nibble) : fieldN (formatXYN op x y n) = n :=
  (fields_formatXYN op x y n).2.2.2

theorem formatNNN_inj {op op' : BitVec 4} {nnn nnn' : Addr12} :
    formatNNN op nnn = formatNNN op' nnn' ↔ op = op' ∧ nnn = nnn' :=
  ⟨fun h => ⟨by simpa using congrArg fieldOp h, by simpa using congrArg fieldNNN h⟩, by rintro ⟨rfl, rfl⟩; rfl⟩

theorem formatXNN_inj {op op' : BitVec 4} {x x' : Reg} {nn nn' : Byte} :
    formatXNN op x nn = formatXNN op' x' nn' ↔ op = op' ∧ x = x' ∧ nn = nn' :=
  ⟨fun h => ⟨by simpa using congrArg fieldOp h, by simpa using congrArg fieldX h, by simpa using congrArg fieldNN h⟩,
    by rintro ⟨rfl, rfl, rfl⟩; rfl⟩

theorem formatXYN_inj {op op' : BitVec 4} {x x' y y' : Reg} {n n' : Nibble} :
    formatXYN op x y n = formatXYN op' x' y' n' ↔ op = op' ∧ x = x' ∧ y = y' ∧ n = n' :=
  ⟨fun h => ⟨by simpa using congrArg fieldOp h, by simpa using congrArg fieldX h, by simpa using congrArg fieldY h,
    by simpa using congrArg fieldN h⟩, by rintro ⟨rfl, rfl, rfl, rfl⟩; rfl⟩

/-- A word with the primary opcode `op`, put together again in format `NNN`. -/
theorem formatNNN_of_fieldOp {w : Word} {op : BitVec 4} (h : fieldOp w = op) : formatNNN op (fieldNNN w) = w :=
  h ▸ formatNNN_fields w

theorem formatXNN_of_fieldOp {w : Word} {op : BitVec 4} (h : fieldOp w = op) :
    formatXNN op (fieldX w) (fieldNN w) = w :=
  h ▸ formatXNN_fields w

theorem formatXYN_of_fieldOp {w : Word} {op : BitVec 4} (h : fieldOp w = op) :
    formatXYN op (fieldX w) (fieldY w) (fieldN w) = w :=
  h ▸ formatXYN_fields w

/-! ### The decoder on bytes (R41, R60) -/

theorem wordOfBytes_extractLsb (w : Word) : wordOfBytes (w.extractLsb' 8 8) (w.extractLsb' 0 8) = w := by
  apply BitVec.eq_of_toNat_eq
  simp only [wordOfBytes_toNat, BitVec.extractLsb'_toNat, Nat.shiftRight_eq_div_pow]
  omega

theorem decode_bytesOfWord (w : Word) : decode (bytesOfWord w) = .ok (decodeWord w, []) := by
  simp only [bytesOfWord, decode, wordOfBytes_extractLsb]

/-! ### The decoder's families (R63 to R65, R70) -/

theorem decodeFamily0_formatNNN (nnn : Addr12) :
    decodeFamily0 (formatNNN 0x0#4 nnn) =
      if nnn = 0x0E0#12 then .cls else if nnn = 0x0EE#12 then .ret else .sys nnn := by
  have hword (m : Addr12) : formatNNN 0x0#4 nnn = formatNNN 0x0#4 m ↔ nnn = m := by simp [formatNNN_inj]
  unfold decodeFamily0
  rw [fieldNNN_formatNNN]
  exact if_congr (hword 0x0E0) rfl (if_congr (hword 0x0EE) rfl rfl)

theorem decodeFamily8_reserved {n : Nibble} (x y : Reg) (hn : n ∉ family8Selectors) :
    decodeFamily8 x y n = .reserved8 x y n := by
  simp_all [decodeFamily8, family8Selectors]

theorem decodeFamilyE_reserved {nn : Byte} (x : Reg) (hnn : nn ∉ familyESelectors) :
    decodeFamilyE x nn = .reservedE x nn := by
  simp_all [decodeFamilyE, familyESelectors]

theorem decodeFamilyF_reserved {nn : Byte} (x : Reg) (hnn : nn ∉ familyFSelectors) :
    decodeFamilyF x nn = .reservedF x nn := by
  simp_all [decodeFamilyF, familyFSelectors]

/-! ### Decoding an encoded instruction -/

/-- The primary opcode names the family, and the selector names the instruction in it; a well-formed reserved word's
selector is none of its family's. -/
theorem decodeWord_encode {i : Instr} (hwf : i.wf = true) : decodeWord (encode i) = i := by
  cases i
  case cls | ret => rfl
  case sys nnn =>
    have hnnn : nnn ≠ 0x0E0#12 ∧ nnn ≠ 0x0EE#12 := by simpa [Instr.wf] using hwf
    simp [encode, decodeWord, decodeFamily0_formatNNN, hnnn]
  case reserved5 x y n | reserved9 x y n =>
    have hn : n ≠ 0x0#4 := by simpa [Instr.wf] using hwf
    simp [encode, decodeWord, hn]
  case reserved8 x y n =>
    have hn : n ∉ family8Selectors := by simpa [Instr.wf] using hwf
    simp [encode, decodeWord, decodeFamily8_reserved x y hn]
  case reservedE x nn =>
    have hnn : nn ∉ familyESelectors := by simpa [Instr.wf] using hwf
    simp [encode, decodeWord, decodeFamilyE_reserved x hnn]
  case reservedF x nn =>
    have hnn : nn ∉ familyFSelectors := by simpa [Instr.wf] using hwf
    simp [encode, decodeWord, decodeFamilyF_reserved x hnn]
  all_goals simp [encode, decodeWord, decodeFamily8, decodeFamilyE, decodeFamilyF]

/-! ### Encoding a decoded word -/

/-- `i` is a well-formed instruction and `w` is its word. -/
def Instr.HasWord (i : Instr) (w : Word) : Prop := i.wf = true ∧ encode i = w

theorem hasWord_decodeFamily0 (nnn : Addr12) :
    (decodeFamily0 (formatNNN 0x0#4 nnn)).HasWord (formatNNN 0x0#4 nnn) := by
  rw [decodeFamily0_formatNNN]
  split
  case isTrue h => subst h; exact ⟨rfl, rfl⟩
  case isFalse hcls =>
    split
    case isTrue h => subst h; exact ⟨rfl, rfl⟩
    case isFalse hret => exact ⟨by simp [Instr.wf, hcls, hret], rfl⟩

theorem hasWord_decodeFamily5 (x y : Reg) (n : Nibble) :
    (if n = 0 then Instr.seReg x y else .reserved5 x y n).HasWord (formatXYN 0x5 x y n) := by
  split
  case isTrue h => subst h; exact ⟨rfl, rfl⟩
  case isFalse h => exact ⟨bne_iff_ne.2 h, rfl⟩

theorem hasWord_decodeFamily9 (x y : Reg) (n : Nibble) :
    (if n = 0 then Instr.sneReg x y else .reserved9 x y n).HasWord (formatXYN 0x9 x y n) := by
  split
  case isTrue h => subst h; exact ⟨rfl, rfl⟩
  case isFalse h => exact ⟨bne_iff_ne.2 h, rfl⟩

theorem hasWord_decodeFamily8 (x y : Reg) (n : Nibble) : (decodeFamily8 x y n).HasWord (formatXYN 0x8 x y n) := by
  by_cases hn : n ∈ family8Selectors
  · simp only [family8Selectors, List.mem_cons, List.not_mem_nil, or_false] at hn
    rcases hn with rfl | rfl | rfl | rfl | rfl | rfl | rfl | rfl | rfl <;> exact ⟨rfl, rfl⟩
  · rw [decodeFamily8_reserved x y hn]
    exact ⟨by simpa [Instr.wf] using hn, rfl⟩

theorem hasWord_decodeFamilyE (x : Reg) (nn : Byte) : (decodeFamilyE x nn).HasWord (formatXNN 0xE x nn) := by
  by_cases hnn : nn ∈ familyESelectors
  · simp only [familyESelectors, List.mem_cons, List.not_mem_nil, or_false] at hnn
    rcases hnn with rfl | rfl <;> exact ⟨rfl, rfl⟩
  · rw [decodeFamilyE_reserved x hnn]
    exact ⟨by simpa [Instr.wf] using hnn, rfl⟩

theorem hasWord_decodeFamilyF (x : Reg) (nn : Byte) : (decodeFamilyF x nn).HasWord (formatXNN 0xF x nn) := by
  by_cases hnn : nn ∈ familyFSelectors
  · simp only [familyFSelectors, List.mem_cons, List.not_mem_nil, or_false] at hnn
    rcases hnn with rfl | rfl | rfl | rfl | rfl | rfl | rfl | rfl | rfl <;> exact ⟨rfl, rfl⟩
  · rw [decodeFamilyF_reserved x hnn]
    exact ⟨by simpa [Instr.wf] using hnn, rfl⟩

/-- No bit of a word is lost, by the 16 primary opcodes of R63: each branch keeps every field of its format. -/
theorem hasWord_decodeWord (w : Word) : (decodeWord w).HasWord w := by
  unfold decodeWord
  split
  next h =>
    rw [← formatNNN_of_fieldOp h]
    exact hasWord_decodeFamily0 (fieldNNN w)
  next h => exact ⟨rfl, formatNNN_of_fieldOp h⟩
  next h => exact ⟨rfl, formatNNN_of_fieldOp h⟩
  next h => exact ⟨rfl, formatXNN_of_fieldOp h⟩
  next h => exact ⟨rfl, formatXNN_of_fieldOp h⟩
  next h => exact (hasWord_decodeFamily5 ..).imp_right (·.trans (formatXYN_of_fieldOp h))
  next h => exact ⟨rfl, formatXNN_of_fieldOp h⟩
  next h => exact ⟨rfl, formatXNN_of_fieldOp h⟩
  next h => exact (hasWord_decodeFamily8 ..).imp_right (·.trans (formatXYN_of_fieldOp h))
  next h => exact (hasWord_decodeFamily9 ..).imp_right (·.trans (formatXYN_of_fieldOp h))
  next h => exact ⟨rfl, formatNNN_of_fieldOp h⟩
  next h => exact ⟨rfl, formatNNN_of_fieldOp h⟩
  next h => exact ⟨rfl, formatXNN_of_fieldOp h⟩
  next h => exact ⟨rfl, formatXYN_of_fieldOp h⟩
  next h => exact (hasWord_decodeFamilyE ..).imp_right (·.trans (formatXNN_of_fieldOp h))
  next =>
    have h : fieldOp w = 0xF#4 := by
      generalize fieldOp w = op at *
      decide +revert
    exact (hasWord_decodeFamilyF ..).imp_right (·.trans (formatXNN_of_fieldOp h))

/-- Settles O10: `decodeWord_encode` one way, `hasWord_decodeWord` the other. -/
theorem decodeAndEncodeAreInverse : Obligations.DecodeAndEncodeAreInverse := by
  refine ⟨fun i hwf => ⟨decodeWord_encode hwf, ?_⟩, ?_⟩
  · rw [decode_bytesOfWord, decodeWord_encode hwf]
  · rintro w _ rfl
    exact hasWord_decodeWord w

/-! ### The opcode table (R64, R66) -/

/-- The word meets the row's mask and match (R66). -/
def OpcodeRow.accepts (r : OpcodeRow) (w : Word) : Bool := w &&& r.maskBits == r.matchBits

theorem firstRow_eq (w : Word) : firstRow w = opcodeTable.find? (·.accepts w) := rfl

/-- A row of one word of family 0. -/
def OpcodeRow.fixed (p : String) (nnn : Addr12) : OpcodeRow := ⟨p, 0xFFFF, formatNNN 0x0 nnn⟩

/-- A row of all words with the primary opcode `op`. -/
def OpcodeRow.primary (p : String) (op : BitVec 4) : OpcodeRow := ⟨p, 0xF000, formatNNN op 0⟩

/-- A row of a primary opcode with a selector N (R65). -/
def OpcodeRow.selectN (p : String) (op : BitVec 4) (n : Nibble) : OpcodeRow := ⟨p, 0xF00F, formatXYN op 0 0 n⟩

/-- A row of a primary opcode with a selector NN (R65). -/
def OpcodeRow.selectNN (p : String) (op : BitVec 4) (nn : Byte) : OpcodeRow := ⟨p, 0xF0FF, formatXNN op 0 nn⟩

@[simp] theorem pattern_primary (p : String) (op : BitVec 4) : (OpcodeRow.primary p op).pattern = p := rfl

@[simp] theorem pattern_selectN (p : String) (op : BitVec 4) (n : Nibble) : (OpcodeRow.selectN p op n).pattern = p := rfl

@[simp] theorem pattern_selectNN (p : String) (op : BitVec 4) (nn : Byte) :
    (OpcodeRow.selectNN p op nn).pattern = p := rfl

@[simp] theorem accepts_fixed (p : String) (nnn : Addr12) (w : Word) :
    (OpcodeRow.fixed p nnn).accepts w = (fieldOp w == 0x0#4 && fieldNNN w == nnn) := by
  have hmask : w &&& 0xFFFF#16 = formatNNN (fieldOp w) (fieldNNN w) :=
    BitVec.and_allOnes.trans (formatNNN_fields w).symm
  rw [Bool.eq_iff_iff]
  simp [OpcodeRow.accepts, OpcodeRow.fixed, hmask, formatNNN_inj]

@[simp] theorem accepts_primary (p : String) (op : BitVec 4) (w : Word) :
    (OpcodeRow.primary p op).accepts w = (fieldOp w == op) := by
  have hmask := Laws.and_mask_NNN (fieldOp w) (fieldNNN w)
  rw [formatNNN_fields] at hmask
  rw [Bool.eq_iff_iff]
  simp [OpcodeRow.accepts, OpcodeRow.primary, hmask, formatNNN_inj]

@[simp] theorem accepts_selectN (p : String) (op : BitVec 4) (n : Nibble) (w : Word) :
    (OpcodeRow.selectN p op n).accepts w = (fieldOp w == op && fieldN w == n) := by
  have hmask := Laws.and_mask_XYN (fieldOp w) (fieldX w) (fieldY w) (fieldN w)
  rw [formatXYN_fields] at hmask
  rw [Bool.eq_iff_iff]
  simp [OpcodeRow.accepts, OpcodeRow.selectN, hmask, formatXYN_inj]

@[simp] theorem accepts_selectNN (p : String) (op : BitVec 4) (nn : Byte) (w : Word) :
    (OpcodeRow.selectNN p op nn).accepts w = (fieldOp w == op && fieldNN w == nn) := by
  have hmask := Laws.and_mask_XSS (fieldOp w) (fieldX w) (fieldNN w)
  rw [formatXNN_fields] at hmask
  rw [Bool.eq_iff_iff]
  simp [OpcodeRow.accepts, OpcodeRow.selectNN, hmask, formatXNN_inj]

/-- Every row's mask keeps the primary opcode, and the selector where the row has one. -/
theorem opcodeTable_eq : opcodeTable =
    [.fixed "00E0" 0x0E0, .fixed "00EE" 0x0EE, .primary "0NNN" 0x0, .primary "1NNN" 0x1, .primary "2NNN" 0x2,
     .primary "3XNN" 0x3, .primary "4XNN" 0x4, .selectN "5XY0" 0x5 0x0, .primary "5XYN" 0x5, .primary "6XNN" 0x6,
     .primary "7XNN" 0x7, .selectN "8XY0" 0x8 0x0, .selectN "8XY1" 0x8 0x1, .selectN "8XY2" 0x8 0x2,
     .selectN "8XY3" 0x8 0x3, .selectN "8XY4" 0x8 0x4, .selectN "8XY5" 0x8 0x5, .selectN "8XY6" 0x8 0x6,
     .selectN "8XY7" 0x8 0x7, .selectN "8XYE" 0x8 0xE, .primary "8XYN" 0x8, .selectN "9XY0" 0x9 0x0,
     .primary "9XYN" 0x9, .primary "ANNN" 0xA, .primary "BNNN" 0xB, .primary "CXNN" 0xC, .primary "DXYN" 0xD,
     .selectNN "EX9E" 0xE 0x9E, .selectNN "EXA1" 0xE 0xA1, .primary "EXNN" 0xE, .selectNN "FX07" 0xF 0x07,
     .selectNN "FX0A" 0xF 0x0A, .selectNN "FX15" 0xF 0x15, .selectNN "FX18" 0xF 0x18, .selectNN "FX1E" 0xF 0x1E,
     .selectNN "FX29" 0xF 0x29, .selectNN "FX33" 0xF 0x33, .selectNN "FX55" 0xF 0x55, .selectNN "FX65" 0xF 0x65,
     .primary "FXNN" 0xF] := rfl

/-- The first row that accepts a well-formed instruction's word is the instruction's own. A row compares fields (the lemmas
on `accepts`), so a row of another family or selector refuses the word; for 0NNN and the reserved words that is what
well-formedness says of the family's earlier rows. -/
theorem firstRow_encode {i : Instr} (hwf : i.wf = true) :
    (firstRow (encode i)).map OpcodeRow.pattern = some i.pattern := by
  rw [firstRow_eq, opcodeTable_eq]
  cases i
  case cls | ret => rfl
  case sys | reserved5 | reserved8 | reserved9 | reservedE | reservedF =>
    simp [Instr.wf, family8Selectors, familyESelectors, familyFSelectors] at hwf
    simp [encode, Instr.pattern, hwf]
  all_goals simp [encode, Instr.pattern]

/-- Settles O11: a word is the word of the instruction it decodes to, whose row is the first. -/
theorem decoderFollowsOpcodeTable : Obligations.DecoderFollowsOpcodeTable := by
  rintro w _ rfl
  obtain ⟨hwf, hword⟩ := hasWord_decodeWord w
  rw [← firstRow_encode hwf, hword]

/-! ### The reserved words (R70) -/

/-- The instructions of the classes (a) to (d). -/
def Instr.isReserved : Instr → Bool
  | .reserved5 .. | .reserved8 .. | .reserved9 .. | .reservedE .. | .reservedF .. => true
  | _ => false

theorem fieldOp_eq {w : Word} {op : BitVec 4} (h : w.toNat / 4096 = op.toNat) : fieldOp w = op :=
  BitVec.eq_of_toNat_eq ((fieldOp_toNat w).trans h)

/-- The words of R70 (a) to (d) decode to reserved instructions. -/
theorem isReserved_decodeWord {w : Word} (h : Machine.IsReservedWord w) : (decodeWord w).isReserved = true := by
  unfold Machine.IsReservedWord at h
  rw [← fieldN_toNat, ← fieldNN_toNat] at h
  rcases h with ⟨hop, hn⟩ | ⟨hop, hnn⟩ | ⟨hop, hnn⟩ | ⟨hop | hop, hn⟩
  case inl =>
    have hsel : fieldN w ∉ family8Selectors := by
      generalize fieldN w = n at hn
      decide +revert
    rw [decodeWord, fieldOp_eq (op := 0x8#4) hop]
    exact congrArg Instr.isReserved (decodeFamily8_reserved _ _ hsel)
  case inr.inl =>
    have hsel : fieldNN w ∉ familyESelectors := mt (List.mem_map_of_mem (f := BitVec.toNat)) hnn
    rw [decodeWord, fieldOp_eq (op := 0xE#4) hop]
    exact congrArg Instr.isReserved (decodeFamilyE_reserved _ hsel)
  case inr.inr.inl =>
    have hsel : fieldNN w ∉ familyFSelectors := mt (List.mem_map_of_mem (f := BitVec.toNat)) hnn
    rw [decodeWord, fieldOp_eq (op := 0xF#4) hop]
    exact congrArg Instr.isReserved (decodeFamilyF_reserved _ hsel)
  case inr.inr.inr.inl =>
    have hsel : fieldN w ≠ 0 := mt (congrArg BitVec.toNat) hn
    rw [decodeWord, fieldOp_eq (op := 0x5#4) hop]
    exact congrArg Instr.isReserved (if_neg hsel)
  case inr.inr.inr.inr =>
    have hsel : fieldN w ≠ 0 := mt (congrArg BitVec.toNat) hn
    rw [decodeWord, fieldOp_eq (op := 0x9#4) hop]
    exact congrArg Instr.isReserved (if_neg hsel)

end Sys2Proof

namespace Sys2Proof.Machine

theorem exec_of_isReserved {i : Instr} (h : i.isReserved = true) (s : State) : exec i s = .next s := by
  cases i
  case reserved5 | reserved8 | reserved9 | reservedE | reservedF => rfl
  all_goals exact absurd h Bool.false_ne_true

/-- While running, a cycle whose fetch answers a word runs its instruction with `PC` advanced (R80). -/
theorem cycle_of_fetch {s : State} {w : Word} (hrun : s.running) (hw : s.fetch = .ok w) :
    cycle s = exec (decodeWord w) s.advance := by
  rcases cycle_cases hrun with ⟨e, he, -⟩ | ⟨w', hw', hc⟩
  · cases hw.symm.trans he
  · cases hw.symm.trans hw'
    exact hc

/-- Settles O14. -/
theorem reservedWordsChangeOnlyThePc : Obligations.ReservedWordsChangeOnlyThePc := by
  refine ⟨fun s x y n nn => ⟨rfl, rfl, rfl, rfl, rfl⟩, fun s w hrun hw hres => ?_⟩
  rw [cycle_of_fetch hrun hw, exec_of_isReserved (isReserved_decodeWord hres)]
  rfl

end Sys2Proof.Machine
end

section
/-! PROOFS. Control flow (40_control_flow.md): a cycle and a step, the no-op 0NNN, call and return, jumps and skips. -/

namespace Sys2Proof.Machine

/-! ### A cycle and a step (R80, R81) -/

theorem cycle_of_fatal {s : State} (h : s.fatal = true) : cycle s = .next s := if_pos h

theorem step_of_fatal {s : State} (h : s.fatal = true) : step s = .next s := if_pos h

/-- While running, a cycle ends in a next state whether the fetch fails or an instruction runs (R72, R81). -/
theorem cycle_next {s : State} (hrun : s.running) : ∃ t, cycle s = .next t := by
  rcases cycle_cases hrun with ⟨e, -, hc⟩ | ⟨w, -, hc⟩
  · exact ⟨_, hc⟩
  · exact hc ▸ exec_next (decodeWord w) s.advance

/-- Settles O8, by the ways a cycle ends. -/
theorem aCycleAlwaysCompletes : Obligations.ACycleAlwaysCompletes := by
  intro s
  refine ⟨fun h => ⟨cycle_of_fatal h, step_of_fatal h⟩, fun hrun => ?_⟩
  obtain ⟨t, hc⟩ := cycle_next hrun
  exact ⟨⟨t, hc⟩, _, step_of_cycle hrun hc⟩

/-- Two bytes that decode to an instruction are those of a word that does. -/
theorem decodeWord_of_decode {hi lo : Byte} {i : Instr} (h : decode [hi, lo] = .ok (i, [])) :
    decodeWord (wordOfBytes hi lo) = i := congrArg Prod.fst (Except.ok.inj h)

/-- Settles O5. -/
theorem stepRunsTheDecodedInstruction : Obligations.StepRunsTheDecodedInstruction := by
  intro s t i hrun hbounds hdecode
  have hcycle : cycle s = exec i s.advance := by
    rw [cycle_of_fetch hrun (fetch_ok hbounds), decodeWord_of_decode hdecode]
  exact ⟨hcycle, fun hexec => step_of_cycle hrun (hcycle.trans hexec)⟩

/-! ### The native call (R83) -/

/-- A word of family 0 that is neither fixed word decodes to 0NNN (30_encoding.md R64, R71). -/
theorem decodeWord_of_isSysWord {w : Word} (h : IsSysWord w) : decodeWord w = .sys (fieldNNN w) := by
  obtain ⟨hop, hcls, hret⟩ := h
  rw [decodeWord, fieldOp_eq (op := 0x0#4) hop]
  exact (if_neg (mt (congrArg BitVec.toNat) hcls)).trans (if_neg (mt (congrArg BitVec.toNat) hret))

theorem wordIs_sys (nnn : Addr12) : WordIs (.sys nnn) nnn.toNat := by
  simpa using wordIs_formatNNN (.sys nnn) 0x0#4 nnn rfl

/-- Settles O13: the word decodes to 0NNN, whose meaning is the state it runs in. -/
theorem nativeCallChangesOnlyThePc : Obligations.NativeCallChangesOnlyThePc := by
  refine ⟨fun s nnn => ⟨rfl, wordIs_sys nnn⟩, fun s w hrun hw hsys => ?_⟩
  rw [cycle_of_fetch hrun hw, decodeWord_of_isSysWord hsys]
  rfl

/-! ### Return and call (R82, R85, 60_exceptions.md R153, R154) -/

theorem zext12_toNat (nnn : Addr12) : (zext12 nnn).toNat = nnn.toNat :=
  BitVec.toNat_setWidth_of_le (by decide)

theorem zext8_toNat (u : Byte) : (zext8 u).toNat = u.toNat := BitVec.toNat_setWidth_of_le (by decide)

theorem exec_ret_of_pop {s t : State} {a : Word} (h : s.pop = some (a, t)) : exec .ret s = .next (t.setPc a) := by
  simp only [exec, execRet, h]

theorem exec_ret_of_empty {s : State} (h : s.sp.val = 0) :
    exec .ret s = .next (faulted s .stackUnderflow 0x00EE 0) := by
  simp only [exec, execRet, pop_of_empty s h, raise_eq]
  rfl

theorem exec_call_of_push {s t : State} (nnn : Addr12) (h : s.push s.pc = some t) :
    exec (.call nnn) s = .next (t.setPc (zext12 nnn)) := by
  simp only [exec, execCall, h]

theorem exec_call_of_full {s : State} (nnn : Addr12) (h : s.sp.val = 16) :
    exec (.call nnn) s = .next (faulted s .stackOverflow (encode (.call nnn)) (zext12 nnn)) := by
  simp only [exec, execCall, push_of_full s _ h, raise_eq]

/-- Settles O15, by what a pop can do. -/
theorem returnPopsThePc : Obligations.ReturnPopsThePc := by
  intro s
  refine ⟨fun h => ?_, exec_ret_of_empty⟩
  have hpop := pop_of_pos s h
  exact ⟨_, exec_ret_of_pop hpop, rfl, rfl, rfl,
    ((frame_pop hpop).trans (frame_setPc _ _)).mono (by simp) (by simp)⟩

/-- The slots after a push: the new entry in slot SP, the others unchanged (10_state.md R16). -/
theorem stack_of_push {s t : State} {a : Word} (h : s.push a = some t) (k : Fin 16) :
    t.stack[k.val] = if k.val = s.sp.val then a else s.stack[k.val] := by
  unfold State.push at h
  split at h
  · obtain rfl := Option.some.inj h
    simp only [Vector.getElem_set, eq_comm]
  · cases h

theorem encode_call (nnn : Addr12) : encode (.call nnn) = BitVec.ofNat 16 (0x2000 + nnn.toNat) := by
  have hword : (encode (.call nnn)).toNat = 0x2000 + nnn.toNat := wordIs_formatNNN (.call nnn) 0x2#4 nnn rfl
  rw [← hword, BitVec.ofNat_toNat, BitVec.setWidth_eq]

theorem zext12_eq_ofNat (nnn : Addr12) : zext12 nnn = BitVec.ofNat 16 nnn.toNat :=
  (BitVec.ofNat_toNat 16 nnn).symm

/-- Settles O16, by what a push can do. -/
theorem callPushesTheReturnAddress : Obligations.CallPushesTheReturnAddress := by
  intro s nnn
  refine ⟨fun h => ?_, fun h => ?_⟩
  · have hpush := push_of_lt s s.pc h
    have hstack := stack_of_push hpush
    exact ⟨_, exec_call_of_push nnn hpush, rfl, hstack, zext12_toNat nnn,
      ((frame_push hpush).trans (frame_setPc _ _)).mono (by simp) (by simp)⟩
  · rw [exec_call_of_full nnn h, encode_call, zext12_eq_ofNat]

/-- Settles O17: the call leaves its return address in the last live entry, which is the one the return pops. -/
theorem returnComesBackFromCall : Obligations.ReturnComesBackFromCall := by
  intro s t u nnn hfree hcall hlive husp
  obtain ⟨t', ht', htsp, htstack, -, -⟩ := (callPushesTheReturnAddress s nnn).1 hfree
  obtain rfl := Host.Outcome.next.inj (hcall.symm.trans ht')
  have husp' : u.sp.val = s.sp.val + 1 := (congrArg Fin.val husp).trans htsp
  obtain ⟨r, hr, hrsp, hrpc, hrstack, -⟩ := (returnPopsThePc u).1 (by omega)
  have hslot : ∀ k : Fin 16, k.val ≤ s.sp.val →
      u.stack[k.val] = if k.val = s.sp.val then s.pc else s.stack[k.val] :=
    fun k hk => (hlive k (by omega)).trans (htstack k)
  refine ⟨r, hr, ?_, Fin.ext (by omega), fun k hk => ?_⟩
  · rw [hrpc]
    simp only [husp', Nat.add_sub_cancel]
    rw [hslot ⟨s.sp.val, hfree⟩ le_rfl, if_pos rfl]
  · rw [hrstack, hslot k hk.le, if_neg hk.ne]

/-! ### Jumps and skips (R84, R86 to R91) -/

/-- Settles O18. -/
theorem jumpSetsThePc : Obligations.JumpSetsThePc :=
  fun s nnn => ⟨_, rfl, zext12_toNat nnn, frame_setPc s _, wordIs_formatNNN (.jp nnn) 0x1#4 nnn rfl⟩

/-- A skip whose Boolean test decides `p` passes one instruction exactly where `p` holds, and writes `PC` alone (R91). -/
theorem skipIf_spec (s : State) {b : Bool} {p : Prop} [Decidable p] (h : b = true ↔ p) :
    Frame s (s.skipIf b) [] [.pc] ∧
      (s.skipIf b).pc.toNat = if p then (s.pc.toNat + 2) % 65536 else s.pc.toNat :=
  ⟨frame_skipIf s b, by simp only [skipIf_pc_toNat, h]⟩

/-- Settles O19: each of the four is a skip on its own test. -/
theorem skipsCompareAndPassOne : Obligations.SkipsCompareAndPassOne := by
  intro s x y nn
  refine ⟨⟨_, rfl, skipIf_spec s beq_iff_eq⟩, ⟨_, rfl, skipIf_spec s bne_iff_ne⟩, ⟨_, rfl, skipIf_spec s beq_iff_eq⟩,
    ⟨_, rfl, skipIf_spec s bne_iff_ne⟩, ?_, ?_, ?_, ?_⟩
  · exact wordIs_formatXNN (.seImm x nn) 0x3#4 x nn rfl
  · exact wordIs_formatXNN (.sneImm x nn) 0x4#4 x nn rfl
  · exact wordIs_formatXYN (.seReg x y) 0x5#4 x y 0x0#4 rfl
  · exact wordIs_formatXYN (.sneReg x y) 0x9#4 x y 0x0#4 rfl

theorem topNibble_eq_ofNat (nnn : Addr12) : topNibble nnn = BitVec.ofNat 4 (nnn.toNat / 256) := by
  apply BitVec.eq_of_toNat_eq
  rw [topNibble, BitVec.extractLsb'_toNat, Nat.shiftRight_eq_div_pow, BitVec.toNat_ofNat]

/-- The target of BNNN does not wrap: a 12-bit address and a byte stay below 65536 (R90, D17). -/
theorem zext12_add_zext8_toNat (nnn : Addr12) (u : Byte) : (zext12 nnn + zext8 u).toNat = nnn.toNat + u.toNat := by
  rw [BitVec.toNat_add, zext12_toNat, zext8_toNat, Nat.mod_eq_of_lt (by omega)]

/-- Settles O20. -/
theorem jumpWithOffsetAddsTheQuirkRegister : Obligations.JumpWithOffsetAddsTheQuirkRegister := by
  intro s nnn
  refine ⟨_, rfl, frame_setPc s _, ?_⟩
  rw [setPc_pc, zext12_add_zext8_toNat, State.jumpOffset, topNibble_eq_ofNat]

end Sys2Proof.Machine
end

section
/-! PROOFS. The register, arithmetic, logic, shift and random instructions (41_alu.md). -/

namespace Sys2Proof.Machine

/-! ### The register an instruction writes, and its flag -/

theorem setReg_reg_self (s : State) (x : Reg) (u : Byte) : (s.setReg x u).reg x = u := by
  rw [setReg_reg, if_pos rfl]

/-- The destination holds the result, unless it is VF, where the flag is written last (R12 (b), R111). -/
theorem setRegFlag_reg_self (s : State) {x : Reg} (u : Byte) (b : Bool) (hx : x ≠ 15) :
    (s.setRegFlag x u b).reg x = u := by
  rw [setRegFlag_reg, if_neg hx, if_pos rfl]

theorem setRegFlag_reg_vf (s : State) (x : Reg) (u : Byte) (b : Bool) :
    (s.setRegFlag x u b).reg 15 = flagByte b := by
  rw [setRegFlag_reg, if_pos rfl]

theorem flagByte_decide (p : Prop) [Decidable p] : flagByte (decide p) = if p then 1 else 0 := by
  simp only [flagByte, decide_eq_true_eq]

theorem flagByte_toNat (b : Bool) : (flagByte b).toNat = b.toNat := by cases b <;> rfl

/-- The words of family 8: the selector `n` is the low nibble (R61, R64). -/
theorem wordIs_family8 (i : Instr) (x y : Reg) (n : Nibble) (h : encode i = formatXYN 0x8 x y n) :
    WordIs i (0x8000 + n.toNat + x.toNat * 256 + y.toNat * 16) := by
  rw [WordIs, h, formatXYN_toNat, show (0x8 : BitVec 4).toNat = 0x8 from rfl]
  omega

/-! ### Loads, assignment and bitwise operations (R100 to R105, R112) -/

/-- Settles O21. -/
theorem immediateLoadAndAdd : Obligations.ImmediateLoadAndAdd := by
  intro s x nn
  refine ⟨⟨_, rfl, setReg_reg_self s x nn, frame_setReg s x nn⟩, ⟨_, rfl, ?_, frame_setReg s x _⟩, ?_, ?_⟩
  · rw [setReg_reg_self, BitVec.toNat_add]
  · exact wordIs_formatXNN (.ldImm x nn) 0x6#4 x nn rfl
  · exact wordIs_formatXNN (.addImm x nn) 0x7#4 x nn rfl

/-- Settles O22: the three bitwise operations are those of `BitVec`, bit by bit. -/
theorem assignAndBitwiseOps : Obligations.AssignAndBitwiseOps := by
  intro s x y
  refine ⟨⟨_, rfl, setReg_reg_self s x _, frame_setReg s x _⟩, ⟨_, rfl, frame_setReg s x _, fun k => ?_⟩,
    ⟨_, rfl, frame_setReg s x _, fun k => ?_⟩, ⟨_, rfl, frame_setReg s x _, fun k => ?_⟩, ?_, ?_, ?_, ?_⟩
  · rw [setReg_reg_self, BitVec.getLsbD_or]
  · rw [setReg_reg_self, BitVec.getLsbD_and]
  · rw [setReg_reg_self, BitVec.getLsbD_xor]
  · exact wordIs_family8 (.ldReg x y) x y 0x0 rfl
  · exact wordIs_family8 (.orReg x y) x y 0x1 rfl
  · exact wordIs_family8 (.andReg x y) x y 0x2 rfl
  · exact wordIs_family8 (.xorReg x y) x y 0x3 rfl

/-- Settles O26. -/
theorem randomIsMaskedInput : Obligations.RandomIsMaskedInput := by
  rintro s x nn _ rfl
  refine ⟨_, rfl, frame_setReg s x _, fun k => ?_, fun hnn => ?_⟩
  · rw [setReg_reg_self, BitVec.getLsbD_and]
  · rw [setReg_reg_self, hnn]
    exact BitVec.and_zero

/-! ### Addition and subtraction (R106, R107, R109) -/

/-- Settles O23. -/
theorem addWritesSumAndCarry : Obligations.AddWritesSumAndCarry := by
  intro s x y
  refine ⟨_, rfl, fun hx => ?_, ?_, frame_setRegFlag s x _ _, wordIs_family8 (.addReg x y) x y 0x4 rfl⟩
  · rw [setRegFlag_reg_self s _ _ hx, BitVec.toNat_add]
  · rw [setRegFlag_reg_vf, carry, flagByte_decide]

/-- Subtraction of bytes is that of the integers mod 256. -/
theorem sub_toNat_emod (a b : Byte) : ((a - b).toNat : Int) = ((a.toNat : Int) - b.toNat) % 256 := by
  rw [BitVec.toNat_sub]
  omega

/-- A difference and its no-borrow flag, whichever two bytes are subtracted: 8XY5 and 8XY7 are its two uses. -/
theorem setRegFlag_sub_spec (s : State) (x : Reg) (a b : Byte) :
    (x ≠ 15 → (((s.setRegFlag x (a - b) (noBorrow a b)).reg x).toNat : Int) = ((a.toNat : Int) - b.toNat) % 256) ∧
      (s.setRegFlag x (a - b) (noBorrow a b)).reg 15 = (if a.toNat ≥ b.toNat then 1 else 0) ∧
      Frame s (s.setRegFlag x (a - b) (noBorrow a b)) [x, 15] [] := by
  refine ⟨fun hx => ?_, ?_, frame_setRegFlag s x _ _⟩
  · rw [setRegFlag_reg_self s _ _ hx, sub_toNat_emod]
  · rw [setRegFlag_reg_vf, noBorrow, flagByte_decide]

/-- Settles O24. -/
theorem subtractionsWriteDifferenceAndNoBorrow : Obligations.SubtractionsWriteDifferenceAndNoBorrow :=
  fun s x y => ⟨⟨_, rfl, setRegFlag_sub_spec s x (s.reg x) (s.reg y)⟩,
    ⟨_, rfl, setRegFlag_sub_spec s x (s.reg y) (s.reg x)⟩,
    wordIs_family8 (.sub x y) x y 0x5 rfl, wordIs_family8 (.subn x y) x y 0x7 rfl⟩

/-! ### Shifts (R108, R110) -/

theorem flagByte_outRight_toNat (u : Byte) : (flagByte (outRight u)).toNat = u.toNat % 2 := by
  rw [flagByte_toNat, outRight, BitVec.getLsbD, Nat.toNat_testBit, pow_zero, Nat.div_one]

theorem flagByte_outLeft_toNat (u : Byte) : (flagByte (outLeft u)).toNat = u.toNat / 128 := by
  rw [flagByte_toNat, outLeft, BitVec.getLsbD, Nat.toNat_testBit]
  omega

/-- Settles O25: `shiftSource` is the quirk's source. -/
theorem shiftsMoveTheQuirkSource : Obligations.ShiftsMoveTheQuirkSource := by
  rintro s x y _ rfl
  refine ⟨⟨_, rfl, fun hx => ?_, ?_, frame_setRegFlag s x _ _⟩, ⟨_, rfl, fun hx => ?_, ?_, frame_setRegFlag s x _ _⟩⟩
  · rw [setRegFlag_reg_self s _ _ hx, BitVec.toNat_ushiftRight, Nat.shiftRight_one, State.shiftSource]
  · rw [setRegFlag_reg_vf, flagByte_outRight_toNat, State.shiftSource]
  · rw [setRegFlag_reg_self s _ _ hx, BitVec.toNat_shiftLeft, Nat.shiftLeft_eq, State.shiftSource]
  · rw [setRegFlag_reg_vf, flagByte_outLeft_toNat, State.shiftSource]

end Sys2Proof.Machine
end

section
/-! PROOFS. The index register, decimal store and block transfer instructions (42_index_memory.md). -/

namespace Sys2Proof.Machine

/-! ### The index register (R120 to R122) -/

/-- Settles O28. -/
theorem loadIndexSetsTheIndex : Obligations.LoadIndexSetsTheIndex :=
  fun s nnn => ⟨_, rfl, zext12_toNat nnn, frame_setI s _, wordIs_formatNNN (.ldI nnn) 0xA#4 nnn rfl⟩

/-- The glyph address of the largest byte, 0x050 + 5 * 255, is below 65536, so nothing wraps (R122, D25). -/
theorem glyphAddr_toNat (u : Byte) : (glyphAddr u).toNat = 0x050 + 5 * u.toNat := by
  have hu := u.isLt
  have hzext := zext8_toNat u
  unfold glyphAddr
  bv_omega

/-- Settles O29. -/
theorem glyphAddressUsesTheWholeByte : Obligations.GlyphAddressUsesTheWholeByte :=
  fun s x => ⟨_, rfl, glyphAddr_toNat (s.reg x), frame_setI s _⟩

/-- Settles O30: the sum and the flag come from the values before either is written. -/
theorem indexAddSetsOverflowFlag : Obligations.IndexAddSetsOverflowFlag := by
  intro s x
  refine ⟨_, rfl, ?_, ?_, (frame_setI s _).trans (frame_setFlag _ _)⟩
  · rw [setFlag_i, setI_i, BitVec.toNat_add, zext8_toNat]
  · rw [setFlag_reg, if_pos rfl, indexOverflow, flagByte_decide]

/-! ### The decimal store (R123) -/

/-- FX33 in bounds (R123, R126). -/
theorem exec_ldB_inBounds {s : State} {x : Reg} (h : InBounds s.cfg s.i 3) :
    exec (.ldB x) s = .next (s.writeBytes s.i.toNat (decimalDigits (s.reg x))) := by
  simp only [exec, execLdB, firstBad_none h]

@[simp] theorem decimalDigits_length (u : Byte) : (decimalDigits u).length = 3 := rfl

/-- Each digit is below 10, so its byte holds it as it is. -/
theorem decimalDigits_toNat (u : Byte) :
    (decimalDigits u)[0].toNat = u.toNat / 100 ∧
      (decimalDigits u)[1].toNat = u.toNat / 10 % 10 ∧
      (decimalDigits u)[2].toNat = u.toNat % 10 := by
  have hu := u.isLt
  simp only [decimalDigits, List.getElem_cons_zero, List.getElem_cons_succ, BitVec.toNat_ofNat]
  omega

/-- Settles O31: `writeBytes` leaves the three digits at its addresses and every other byte alone. -/
theorem decimalStoreWritesThreeDigits : Obligations.DecimalStoreWritesThreeDigits := by
  intro s x h
  obtain ⟨hwritten, hother⟩ := writeBytes_readByte s s.i.toNat (decimalDigits (s.reg x))
    (by simp) fun k => effAddr_lt h
  obtain ⟨hhundreds, htens, hones⟩ := decimalDigits_toNat (s.reg x)
  refine ⟨_, exec_ldB_inBounds h, ?_, ?_, ?_, hother, frame_writeBytes s _ _⟩
  · exact (congrArg BitVec.toNat (hwritten 0 (by simp))).trans hhundreds
  · exact (congrArg BitVec.toNat (hwritten 1 (by simp))).trans htens
  · exact (congrArg BitVec.toNat (hwritten 2 (by simp))).trans hones

/-! ### Block transfer (R124, R125) -/

/-- `I` after a block transfer: moved mod 65536 under Q_INCI only (D17). -/
theorem bumpI_i_toNat (s : State) (n : Nat) :
    (s.bumpI n).i.toNat = if s.cfg.qInci then (s.i.toNat + n) % 65536 else s.i.toNat := by
  rw [bumpI_eq, setI_i]
  split
  · rw [BitVec.toNat_add, BitVec.toNat_ofNat, Nat.add_mod_mod]
  · rfl

@[simp] theorem bumpI_reg (s : State) (n : Nat) (r : Reg) : (s.bumpI n).reg r = s.reg r := by rw [bumpI_eq, setI_reg]

theorem bumpParts_subset (cfg : Config) : bumpParts cfg ⊆ [.index] := by
  unfold bumpParts
  split <;> simp

theorem storeRegs_i (s : State) (base n : Nat) : (s.storeRegs base n).i = s.i := by rw [storeRegs_eq]

theorem loadRegs_i (s : State) (base n : Nat) : (s.loadRegs base n).i = s.i := by rw [loadRegs_eq]

theorem loadRegs_cfg (s : State) (base n : Nat) : (s.loadRegs base n).cfg = s.cfg := by rw [loadRegs_eq]

/-- Settles O32: `storeRegs` leaves the bytes, `bumpI` moves `I`. -/
theorem blockStoreWritesTheRegisters : Obligations.BlockStoreWritesTheRegisters := by
  intro s x h
  obtain ⟨hstored, hother⟩ := storeRegs_readByte s s.i.toNat (x.toNat + 1) (by omega) fun k => effAddr_lt h
  refine ⟨_, exec_ldMemVx_inBounds h, fun r hr => ?_, ?_, fun a ha => ?_, ?_⟩
  · rw [bumpI_readByte, hstored r.toNat (by omega), BitVec.ofNat_toNat, BitVec.setWidth_eq]
  · rw [bumpI_i_toNat, storeRegs_cfg, storeRegs_i, Nat.add_assoc]
  · rw [bumpI_readByte, hother a ha]
  · exact ((frame_storeRegs s _ _).trans (frame_bumpI _ _)).mono (by simp)
      (List.append_subset.2 ⟨by simp, List.subset_cons_of_subset _ (bumpParts_subset _)⟩)

/-- FX65 in bounds (R125, R126). -/
theorem exec_ldVxMem_inBounds {s : State} {x : Reg} (h : InBounds s.cfg s.i (x.toNat + 1)) :
    exec (.ldVxMem x) s = .next ((s.loadRegs s.i.toNat (x.toNat + 1)).bumpI (x.toNat + 1)) := by
  simp only [exec, execLdVxMem, firstBad_none h]

/-- Settles O33: `loadRegs` leaves the registers, `bumpI` moves `I`. -/
theorem blockLoadReadsTheRegisters : Obligations.BlockLoadReadsTheRegisters := by
  intro s x h
  have hloaded := loadRegs_reg s s.i.toNat (x.toNat + 1) (by omega)
  refine ⟨_, exec_ldVxMem_inBounds h, fun r hr => ?_, fun r hr => ?_, ?_, ?_⟩
  · rw [bumpI_reg, hloaded, if_pos (by omega)]
  · rw [bumpI_reg, hloaded, if_neg (by omega)]
  · rw [bumpI_i_toNat, loadRegs_cfg, loadRegs_i, Nat.add_assoc]
  · exact ((frame_loadRegs s _ x).trans (frame_bumpI _ _)).mono (by simp) (bumpParts_subset _)

/-- What a byte reads as depends on MEM and the configuration only. -/
theorem readByte_congr {s t : State} (hmem : t.mem = s.mem) (hcfg : t.cfg = s.cfg) (a : Nat) :
    t.readByte a = s.readByte a := by
  unfold State.readByte
  rw [hmem, hcfg]

/-- Settles O35: the load reads at `I + q` the byte that the store left there, which is Vq. -/
theorem storeThenLoadRestoresTheRegisters : Obligations.StoreThenLoadRestoresTheRegisters := by
  intro s t u x h hstore hmem hcfg hi
  obtain ⟨t', ht', hstored, -, -, hframe⟩ := blockStoreWritesTheRegisters s x h
  obtain rfl := Host.Outcome.next.inj (hstore.symm.trans ht')
  have hbounds : InBounds u.cfg u.i (x.toNat + 1) := by rwa [hcfg, hframe.config, hi]
  obtain ⟨r, hr, hloaded, -⟩ := blockLoadReadsTheRegisters u x hbounds
  refine ⟨r, hr, fun q hq => ?_⟩
  calc r.reg q
    _ = u.readByte (u.i.toNat + q.toNat) := hloaded q hq
    _ = t.readByte (s.i.toNat + q.toNat) := by rw [hi, readByte_congr hmem hcfg]
    _ = s.reg q := hstored q hq

/-! ### Out of bounds (R126, 60_exceptions.md R155) -/

/-- Under the decided policy, addresses whose last one is above 0xFFF are not in bounds. -/
theorem not_inBounds_of_fault {cfg : Config} {base : Word} {count : Nat} (hpolicy : cfg.oobPolicy = .fault)
    (hcount : count ≠ 0) (hlast : 4096 < base.toNat + count) : ¬InBounds cfg base count := by
  rintro (hwrap | hzero | hle)
  · exact absurd (hpolicy.symm.trans hwrap) (by decide)
  · exact hcount hzero
  · exact Nat.not_le_of_lt hlast hle

theorem exec_ldB_outOfBounds {s : State} {x : Reg} (h : ¬InBounds s.cfg s.i 3) :
    exec (.ldB x) s = .next (faulted s .memoryBounds (encode (.ldB x)) (lowestBad s.i)) := by
  simp only [exec, execLdB, firstBad_some h, raise_eq]

theorem exec_ldMemVx_outOfBounds {s : State} {x : Reg} (h : ¬InBounds s.cfg s.i (x.toNat + 1)) :
    exec (.ldMemVx x) s = .next (faulted s .memoryBounds (encode (.ldMemVx x)) (lowestBad s.i)) := by
  simp only [exec, execLdMemVx, firstBad_some h, raise_eq]

theorem exec_ldVxMem_outOfBounds {s : State} {x : Reg} (h : ¬InBounds s.cfg s.i (x.toNat + 1)) :
    exec (.ldVxMem x) s = .next (faulted s .memoryBounds (encode (.ldVxMem x)) (lowestBad s.i)) := by
  simp only [exec, execLdVxMem, firstBad_some h, raise_eq]

theorem exec_drw_outOfBounds {s : State} {x y : Reg} {n : Nibble} (h : ¬InBounds s.cfg s.i n.toNat) :
    exec (.drw x y n) s = .next (faulted s .memoryBounds (encode (.drw x y n)) (lowestBad s.i)) := by
  simp only [exec, execDrw, firstBad_some h, raise_eq]

/-- Settles O34: the check of R126 comes before every effect, and answers `lowestBad`. -/
theorem outOfBoundsAccessIsFatal : Obligations.OutOfBoundsAccessIsFatal := by
  rintro s x y n _ rfl hpolicy
  have hbad {count : Nat} (hcount : count ≠ 0) (hlast : 4096 < s.i.toNat + count) : ¬InBounds s.cfg s.i count :=
    not_inBounds_of_fault hpolicy hcount hlast
  refine ⟨fun hlast => ?_, fun hlast => ?_, fun hlast => ?_, fun hn hlast => ?_⟩
  · exact exec_ldB_outOfBounds (hbad (by decide) (by omega))
  · exact exec_ldMemVx_outOfBounds (hbad (by omega) (by omega))
  · exact exec_ldVxMem_outOfBounds (hbad (by omega) (by omega))
  · exact exec_drw_outOfBounds (hbad (by omega) (by omega))

end Sys2Proof.Machine
end

section
/-! PROOFS. The display (43_display.md): the clear, the sprite, its events and its double draw, and the sink's copy of
DISP that every step keeps. -/

namespace Sys2Proof.Machine

/-! ### The bitmap and its pixels -/

/-- The 2048 pixels are the whole of DISP (10_state.md R18). -/
theorem disp_ext {s t : State} (h : ∀ x y, t.pixel x y = s.pixel x y) : t.disp = s.disp := by
  apply Vector.ext
  intro y hy
  apply BitVec.eq_of_getLsbD_eq
  intro x hx
  exact h ⟨x, hx⟩ ⟨y, hy⟩

@[simp] theorem clearDisplay_pixel (s : State) (x : Fin 64) (y : Fin 32) : s.clearDisplay.pixel x y = false := by
  unfold State.pixel
  rw [clearDisplay_disp, Vector.getElem_replicate]
  exact BitVec.getLsbD_zero

/-- Settles O39. -/
theorem clearZeroesTheDisplay : Obligations.ClearZeroesTheDisplay :=
  fun s => ⟨_, rfl, clearDisplay_pixel s, clearDisplay_out s, frame_clearDisplay s, rfl⟩

/-! ### Drawing distinct pixels (R132, R134, R136) -/

/-- The event of an inverted pixel: it carries the pixel's new value (R136). -/
def State.toggleEvent (s : State) (p : Fin 64 × Fin 32) : SinkEvent := .pixel p.1 p.2 (!s.pixel p.1 p.2)

theorem toggleEvent_injective (s : State) : Function.Injective s.toggleEvent := by
  intro p q h
  obtain ⟨hx, hy, -⟩ := SinkEvent.pixel.inj h
  exact Prod.ext hx hy

theorem clear_notMem_map_toggleEvent (s : State) (ps : List (Fin 64 × Fin 32)) :
    SinkEvent.clear ∉ ps.map s.toggleEvent := by
  simp [State.toggleEvent]

theorem pixel_mem_map_toggleEvent (s : State) (ps : List (Fin 64 × Fin 32)) (px : Fin 64) (py : Fin 32) (on : Bool) :
    SinkEvent.pixel px py on ∈ ps.map s.toggleEvent ↔ (px, py) ∈ ps ∧ on = !s.pixel px py := by
  rw [List.mem_map]
  constructor
  · rintro ⟨p, hp, he⟩
    obtain ⟨rfl, rfl, rfl⟩ := SinkEvent.pixel.inj he
    exact ⟨hp, rfl⟩
  · rintro ⟨hp, rfl⟩
    exact ⟨(px, py), hp, rfl⟩

section
variable (s : State) {ps : List (Fin 64 × Fin 32)} (hn : ps.Nodup)
include hn

theorem blit_pixel_of_mem {px : Fin 64} {py : Fin 32} (hp : (px, py) ∈ ps) :
    (s.blit ps).pixel px py = !s.pixel px py := by
  obtain ⟨hpixel, -, -⟩ := fold_plot ps hn (s.setFlag false)
  exact (hpixel (px, py)).trans (if_pos hp)

theorem blit_pixel_of_notMem {px : Fin 64} {py : Fin 32} (hp : (px, py) ∉ ps) :
    (s.blit ps).pixel px py = s.pixel px py := by
  obtain ⟨hpixel, -, -⟩ := fold_plot ps hn (s.setFlag false)
  exact (hpixel (px, py)).trans (if_neg hp)

theorem blit_out : (s.blit ps).out = s.out ++ ps.map s.toggleEvent := by
  obtain ⟨-, -, hout⟩ := fold_plot ps hn (s.setFlag false)
  exact hout

/-- VF reports the collision (R134). -/
theorem blit_vf_eq_one_iff : (s.blit ps).reg 15 = 1 ↔ ∃ p ∈ ps, s.pixel p.1 p.2 = true := by
  rw [blit_reg s hn, if_pos rfl]
  split
  · next hon => exact iff_of_true rfl hon
  · next hoff => exact iff_of_false (by decide) hoff

/-- Inverting the same pixels twice changes no pixel (R138). -/
theorem blit_blit_disp : ((s.blit ps).blit ps).disp = s.disp := by
  refine disp_ext fun px py => ?_
  by_cases hp : (px, py) ∈ ps
  · rw [blit_pixel_of_mem _ hn hp, blit_pixel_of_mem _ hn hp, Bool.not_not]
  · rw [blit_pixel_of_notMem _ hn hp, blit_pixel_of_notMem _ hn hp]

/-- The second of two draws collides where a pixel was off before the first (R138). -/
theorem blit_blit_vf_eq_one_iff : ((s.blit ps).blit ps).reg 15 = 1 ↔ ∃ p ∈ ps, s.pixel p.1 p.2 = false := by
  rw [blit_vf_eq_one_iff _ hn]
  refine exists_congr fun p => and_congr_right fun hp => ?_
  rw [blit_pixel_of_mem s hn hp, Bool.not_eq_true']

end

/-! ### The sprite of DXYN (R132, R133) -/

/-- The pixels DXYN inverts, in its order: the argument of the model's `blit` in `execDrw`. -/
def State.drawnPixels (s : State) (x y : Reg) (n : Nibble) : List (Fin 64 × Fin 32) :=
  spritePixels ((s.reg x).toNat % 64) ((s.reg y).toNat % 32) (s.spriteRows n)

theorem exec_drw_inBounds {s : State} {x y : Reg} {n : Nibble} (h : InBounds s.cfg s.i n.toNat) :
    exec (.drw x y n) s = .next (s.blit (s.drawnPixels x y n)) := by
  simp only [exec, execDrw, firstBad_none h]
  rfl

theorem nodup_drawnPixels (s : State) (x y : Reg) (n : Nibble) : (s.drawnPixels x y n).Nodup :=
  nodup_spritePixels ..

/-- The drawn pixels are the mask of R133. -/
theorem mem_drawnPixels {s : State} {x y : Reg} {n : Nibble} {px : Fin 64} {py : Fin 32} :
    (px, py) ∈ s.drawnPixels x y n ↔ Toggles s x y n px py := toggles_mem s x y n px py

theorem exists_mem_drawnPixels {s : State} {x y : Reg} {n : Nibble} (b : Bool) :
    (∃ p ∈ s.drawnPixels x y n, s.pixel p.1 p.2 = b) ↔ ∃ px py, Toggles s x y n px py ∧ s.pixel px py = b := by
  simp only [Prod.exists, mem_drawnPixels]

/-- The sprite depends on the coordinates, `I` and the bytes read, so a draw that writes neither VX nor VY keeps it. -/
theorem drawnPixels_of_frame {s t : State} {x y : Reg} (n : Nibble) (h : Frame s t [15] [.display]) (hx : x ≠ 15)
    (hy : y ≠ 15) : t.drawnPixels x y n = s.drawnPixels x y n := by
  unfold State.drawnPixels State.spriteRows
  rw [h.reg x (by simpa using hx), h.reg y (by simpa using hy), h.index (by decide)]
  simp only [h.memory (by decide)]

/-- Settles O40: DRW is `blit` on the mask. -/
theorem drawInvertsTheSpritePixels : Obligations.DrawInvertsTheSpritePixels := by
  intro s x y n h
  have hn := nodup_drawnPixels s x y n
  have hvf : (s.blit (s.drawnPixels x y n)).reg 15 = 1 ↔ ∃ px py, Toggles s x y n px py ∧ s.pixel px py = true :=
    (blit_vf_eq_one_iff s hn).trans (exists_mem_drawnPixels true)
  refine ⟨_, exec_drw_inBounds h, fun px py ht => ?_, fun px py ht => ?_, hvf.2, fun hoff => ?_, frame_blit s hn⟩
  · exact blit_pixel_of_mem s hn (mem_drawnPixels.2 ht)
  · exact blit_pixel_of_notMem s hn (mt mem_drawnPixels.1 ht)
  · refine (blit_vfIsFlag s hn).resolve_right fun hone => ?_
    obtain ⟨px, py, ht, hon⟩ := hvf.1 hone
    exact Bool.false_ne_true ((hoff px py ht).symm.trans hon)

/-- Settles O41: the events are those of the mask's pixels, each of which occurs once in the sprite. -/
theorem drawEmitsOneEventPerPixel : Obligations.DrawEmitsOneEventPerPixel := by
  intro s x y n h
  have hn := nodup_drawnPixels s x y n
  refine ⟨_, _, exec_drw_inBounds h, blit_out s hn, hn.map (toggleEvent_injective s),
    clear_notMem_map_toggleEvent s _, fun px py on => ?_⟩
  rw [pixel_mem_map_toggleEvent, mem_drawnPixels]
  refine and_congr_right fun ht => ?_
  rw [blit_pixel_of_mem s hn (mem_drawnPixels.2 ht)]

/-- Settles O42: the second draw inverts the same pixels, since the first leaves VX, VY, `I` and MEM. -/
theorem doubleDrawRestoresTheBitmap : Obligations.DoubleDrawRestoresTheBitmap := by
  intro s x y n h hx hy
  have hn := nodup_drawnPixels s x y n
  have hframe := frame_blit s hn
  have hbounds : InBounds (s.blit (s.drawnPixels x y n)).cfg (s.blit (s.drawnPixels x y n)).i n.toNat := by
    rwa [hframe.config, hframe.index (by decide)]
  have hsecond := exec_drw_inBounds (x := x) (y := y) hbounds
  rw [drawnPixels_of_frame n hframe hx hy] at hsecond
  exact ⟨_, _, exec_drw_inBounds h, hsecond, blit_blit_disp s hn,
    (blit_vf_eq_one_iff s hn).trans (exists_mem_drawnPixels true),
    (blit_blit_vf_eq_one_iff s hn).trans (exists_mem_drawnPixels false)⟩

/-! ### The sink's copy of DISP (R136) -/

theorem sinkPicture_concat (evs : List SinkEvent) (e : SinkEvent) :
    sinkPicture (evs ++ [e]) = applyEvent (sinkPicture evs) e := List.foldl_concat ..

/-- The sink that is told a pixel's inverted value inverts the pixel. -/
theorem applyEvent_pixel_not (d : Vector (BitVec 64) 32) (x : Fin 64) (y : Fin 32) :
    applyEvent d (.pixel x y (!d[y.val].getLsbD x.val)) = flipPixel d x y := if_neg (Bool.self_ne_not _)

/-- The invariant speaks of DISP and the events only. -/
theorem sinkAgrees_congr {s t : State} (hdisp : t.disp = s.disp) (hout : t.out = s.out) :
    t.SinkAgrees ↔ s.SinkAgrees := by
  unfold State.SinkAgrees
  rw [hdisp, hout]

/-- The sink agrees after a clear, whatever it held before (R131). -/
theorem clearDisplay_sinkAgrees (s : State) : s.clearDisplay.SinkAgrees := by
  unfold State.SinkAgrees
  rw [clearDisplay_out, sinkPicture_concat, clearDisplay_disp]
  rfl

theorem plotPixel_sinkAgrees {s : State} (p : Fin 64 × Fin 32) (h : s.SinkAgrees) : (s.plotPixel p).SinkAgrees := by
  unfold State.SinkAgrees at h ⊢
  rw [plotPixel_out, sinkPicture_concat, h, plotPixel_disp]
  exact applyEvent_pixel_not s.disp p.1 p.2

theorem foldl_plotPixel_sinkAgrees {s : State} (ps : List (Fin 64 × Fin 32)) (h : s.SinkAgrees) :
    (ps.foldl State.plotPixel s).SinkAgrees := by
  induction ps generalizing s with
  | nil => exact h
  | cons p ps ih => exact ih (plotPixel_sinkAgrees p h)

theorem blit_sinkAgrees {s : State} (ps : List (Fin 64 × Fin 32)) (h : s.SinkAgrees) : (s.blit ps).SinkAgrees :=
  foldl_plotPixel_sinkAgrees ps ((sinkAgrees_congr (setFlag_disp s false) (setFlag_out s false)).2 h)

theorem sinkAgrees_of_exec_drw {s t : State} {x y : Reg} {n : Nibble} (hs : s.SinkAgrees)
    (h : exec (.drw x y n) s = .next t) : t.SinkAgrees := by
  by_cases hbounds : InBounds s.cfg s.i n.toNat
  · obtain rfl := Host.Outcome.next.inj ((exec_drw_inBounds hbounds).symm.trans h)
    exact blit_sinkAgrees _ hs
  · obtain rfl := Host.Outcome.next.inj ((exec_drw_outOfBounds hbounds).symm.trans h)
    exact hs

/-- CLS and DRW keep the sink a copy; no other instruction touches DISP or the events. -/
theorem sinkAgrees_of_exec {i : Instr} {s t : State} (hs : s.SinkAgrees) (h : exec i s = .next t) :
    t.SinkAgrees := by
  by_cases hcls : i = .cls
  · subst hcls
    obtain rfl := Host.Outcome.next.inj h
    exact clearDisplay_sinkAgrees s
  by_cases hdrw : ∃ x y n, i = .drw x y n
  · obtain ⟨x, y, n, rfl⟩ := hdrw
    exact sinkAgrees_of_exec_drw hs h
  obtain ⟨hdisp, hout⟩ :=
    onlyDrawAndClearTouchTheDisplay i s t h hcls fun x y n hi => hdrw ⟨x, y, n, hi⟩
  exact (sinkAgrees_congr hdisp hout).2 hs

@[simp] theorem gap_disp (s : State) (e : LoopInput) : (s.gap e).disp = s.disp := by
  rw [gap_eq]
  split <;> rfl

@[simp] theorem gap_out (s : State) (e : LoopInput) : (s.gap e).out = s.out := by
  rw [gap_eq]
  split <;> rfl

/-- Settles O44, by the ways a step ends. -/
theorem everyStepKeepsTheSinkACopy : Obligations.EveryStepKeepsTheSinkACopy := by
  intro s t hs h
  rcases step_next_cases h with ⟨-, rfl⟩ | ⟨-, u, rfl, hu⟩
  · exact hs
  · refine (sinkAgrees_congr (gap_disp u _) (gap_out u _)).2 ?_
    rcases hu with ⟨e, rfl⟩ | ⟨i, hi⟩
    · exact hs
    · exact sinkAgrees_of_exec ((sinkAgrees_congr (advance_disp s) (advance_out s)).2 hs) hi

end Sys2Proof.Machine
end

section
/-! PROOFS. The keypad and the timers (44_keypad_timers.md): the gap of the run loop, the key tests, the wait for a key and
the timer moves. -/

namespace Sys2Proof.Machine

/-! ### The gap (R146, 60_exceptions.md R159 to R161) -/

/-- The gap in FATAL only uses the input up (R159). -/
theorem gap_of_fatal {s : State} (h : s.fatal = true) (e : LoopInput) : s.gap e = s.nextIter := by
  rw [gap_eq, if_pos h]

/-- The gap while running writes KP and each timer. -/
theorem gap_of_running {s : State} (h : s.running) (e : LoopInput) :
    s.gap e = { s with kp := e.keys.getD s.kp
                       dt := if e.tick then countDown s.dt else s.dt
                       st := if e.tick then countDown s.st else s.st }.nextIter := by
  rw [gap_eq, if_neg (Bool.eq_false_iff.1 h)]

/-- In FATAL or not, the gap writes KP, DT, ST and the model's own input fields at most. -/
theorem gap_writes (s : State) (e : LoopInput) :
    s.gap e = { s.nextIter with kp := (s.gap e).kp, dt := (s.gap e).dt, st := (s.gap e).st } := by
  rw [gap_eq]
  split <;> rfl

/-- A timer after the gap: one less, never below 0, if a tick occurs (R160). -/
theorem ite_countDown_toNat (occurs : Bool) (u : Byte) :
    (if occurs then countDown u else u).toNat = if occurs then u.toNat - 1 else u.toNat := by
  rw [apply_ite BitVec.toNat, countDown_toNat]

/-- Settles O6, by the gap in FATAL and the gap while running. -/
theorem gapIsKeypadThenTick : Obligations.GapIsKeypadThenTick := by
  rintro s _ e rfl
  refine ⟨fun hfatal => ?_, fun hrun => ?_, ?_⟩
  · rw [gap_of_fatal hfatal]
    exact ⟨rfl, rfl, rfl⟩
  · rw [gap_of_running hrun]
    exact ⟨rfl, ite_countDown_toNat e.tick s.dt, ite_countDown_toNat e.tick s.st⟩
  · rw [gap_writes]
    exact ⟨rfl, rfl, rfl, rfl, rfl, rfl, rfl, rfl, rfl, rfl, rfl⟩

/-! ### The key tests (R140, R141) -/

/-- The key an index names: a value up to 15 names itself under either policy, and under `mask4` every value names its low
four bits. -/
theorem keyIndex_eq_some {cfg : Config} {u : Byte} {k : Nat}
    (h : u.toNat ≤ 15 ∧ k = u.toNat ∨ cfg.keyPolicy = .mask4 ∧ k = u.toNat % 16) :
    ∃ key : Fin 16, key.val = k ∧ keyIndex cfg u = some key := by
  unfold keyIndex
  rcases h with ⟨hle, rfl⟩ | ⟨hmask, rfl⟩
  · have hlt : u.toNat < 16 := Nat.lt_succ_of_le hle
    refine ⟨⟨u.toNat, hlt⟩, rfl, ?_⟩
    cases cfg.keyPolicy with
    | fault => exact dif_pos hlt
    | mask4 => exact congrArg some (Fin.ext (Nat.mod_eq_of_lt hlt))
  · rw [hmask]
    exact ⟨_, rfl, rfl⟩

theorem exec_skp_of_keyIndex {s : State} {x : Reg} {key : Fin 16} (h : keyIndex s.cfg (s.reg x) = some key) :
    exec (.skp x) s = .next (s.skipIf (s.keyDown key)) := by
  simp only [exec, execSkp, h]

theorem exec_sknp_of_keyIndex {s : State} {x : Reg} {key : Fin 16} (h : keyIndex s.cfg (s.reg x) = some key) :
    exec (.sknp x) s = .next (s.skipIf (!s.keyDown key)) := by
  simp only [exec, execSknp, h]

/-- Settles O45: each test is a skip on the bit of KP that the index names. -/
theorem keyTestsSkip : Obligations.KeyTestsSkip := by
  intro s x k h
  obtain ⟨key, rfl, hkey⟩ := keyIndex_eq_some h
  refine ⟨⟨_, exec_skp_of_keyIndex hkey, frame_skipIf s _, skipIf_pc s _⟩,
    ⟨_, exec_sknp_of_keyIndex hkey, frame_skipIf s _, ?_⟩⟩
  rw [skipIf_pc, State.keyDown]
  simp only [Bool.not_eq_true']

/-! ### The words of family F (R142 to R145) -/

/-- The words of family F: the selector `nn` is the low byte (30_encoding.md R61, R65). -/
theorem wordIs_familyF (i : Instr) (x : Reg) (nn : Byte) (h : encode i = formatXNN 0xF x nn) :
    WordIs i (0xF000 + nn.toNat + x.toNat * 256) := by
  rw [Nat.add_right_comm]
  exact wordIs_formatXNN i 0xF#4 x nn h

/-! ### The wait for a key (R142) -/

theorem lowestKey_eq_some {kp : BitVec 16} {k : Nat} (hk : k < 16) (hdown : kp.getLsbD k = true)
    (hlower : ∀ j, j < k → kp.getLsbD j = false) : lowestKey kp = some k := by
  rw [lowestKey, List.find?_range_eq_some]
  exact ⟨hdown, List.mem_range.2 hk, fun j hj => by rw [hlower j hj, Bool.not_false]⟩

theorem lowestKey_zero : lowestKey 0 = none := rfl

/-- FX0A with a key found: the rewind and the advance after it cancel. -/
theorem advance_setReg_rewind (s : State) (x : Reg) (u : Byte) : (s.rewind.setReg x u).advance = s.setReg x u := by
  have hpc : s.pc - 2 + 2 = s.pc := BitVec.sub_add_cancel s.pc 2
  calc (s.rewind.setReg x u).advance
    _ = (s.setReg x u).setPc (s.pc - 2 + 2) := rfl
    _ = s.setReg x u := by rw [hpc]; rfl

/-- The cycle of FX0A with no key: the advance and the rewind after it cancel. -/
theorem rewind_advance (s : State) : s.advance.rewind = s := by
  have hpc : s.pc + 2 - 2 = s.pc := BitVec.add_sub_cancel s.pc 2
  calc s.advance.rewind
    _ = s.setPc (s.pc + 2 - 2) := rfl
    _ = s := by rw [hpc]; rfl

theorem exec_ldVxK_of_pressed {s : State} {k : Nat} (x : Reg) (h : lowestKey s.kp = some k) :
    exec (.ldVxK x) s = .next (s.setReg x (BitVec.ofNat 8 k)) := by
  simp only [exec, execLdVxK, h, advance_setReg_rewind]

theorem exec_ldVxK_of_none {s : State} (x : Reg) (h : s.kp = 0) : exec (.ldVxK x) s = .next s.rewind := by
  simp only [exec, execLdVxK, h, lowestKey_zero]

/-- The whole waiting cycle changes nothing. -/
theorem cycle_ldVxK_of_none {s : State} {x : Reg} (hkp : s.kp = 0) (hrun : s.running)
    (hw : s.fetch = .ok (encode (.ldVxK x))) : cycle s = .next s := by
  rw [cycle_of_fetch hrun hw, decodeWord_encode rfl, exec_ldVxK_of_none x (s := s.advance) hkp, rewind_advance]

/-- Settles O47, by what FX0A does with a key found and with none. -/
theorem waitForKeyTakesTheLowestKey : Obligations.WaitForKeyTakesTheLowestKey := by
  intro s x
  refine ⟨fun k hk hdown hlower => ?_, fun hkp => ⟨exec_ldVxK_of_none x hkp, cycle_ldVxK_of_none hkp⟩,
    wordIs_familyF (.ldVxK x) x 0x0A rfl⟩
  refine ⟨_, exec_ldVxK_of_pressed x (lowestKey_eq_some hk hdown hlower), ?_, rfl, frame_setReg s x _⟩
  rw [setReg_reg_self, BitVec.toNat_ofNat, Nat.mod_eq_of_lt (by omega)]

/-! ### The timer moves (R143 to R145) -/

/-- Settles O48. -/
theorem timerMoves : Obligations.TimerMoves := by
  intro s x
  refine ⟨⟨_, rfl, setReg_reg_self s x s.dt, frame_setReg s x s.dt⟩, ⟨_, rfl, rfl, frame_withDelay s (s.reg x)⟩,
    ⟨_, rfl, rfl, frame_withSound s (s.reg x)⟩, ?_, ?_, ?_⟩
  · exact wordIs_familyF (.ldVxDt x) x 0x07 rfl
  · exact wordIs_familyF (.ldDtVx x) x 0x15 rfl
  · exact wordIs_familyF (.ldStVx x) x 0x18 rfl

end Sys2Proof.Machine
end

section
/-! PROOFS. The fatal conditions and the environment's operations (60_exceptions.md): what is fatal, what a fault records,
what FATAL disables, and the countdown of the timers. -/

namespace Sys2Proof.Machine

/-! ### The key index out of range (R156) -/

theorem zext8_eq_ofNat (u : Byte) : zext8 u = BitVec.ofNat 16 u.toNat := (BitVec.ofNat_toNat 16 u).symm

/-- A value above 15 names no key under the decided policy (44_keypad_timers.md R140). -/
theorem keyIndex_eq_none {cfg : Config} {u : Byte} (hpolicy : cfg.keyPolicy = .fault) (hu : u.toNat > 15) :
    keyIndex cfg u = none := by
  unfold keyIndex
  rw [hpolicy]
  exact dif_neg (Nat.not_lt_of_le hu)

/-- Settles O46: the test finds no key, so it raises. -/
theorem keyIndexAboveFifteenIsFatal : Obligations.KeyIndexAboveFifteenIsFatal := by
  intro s x hpolicy hx
  have hkey := keyIndex_eq_none hpolicy hx
  constructor
  · simp only [exec, execSkp, hkey, raise_eq, zext8_eq_ofNat]
  · simp only [exec, execSknp, hkey, raise_eq, zext8_eq_ofNat]

/-! ### What a fault leaves (R151, R158) -/

/-- Settles O52: an instruction that keeps its frame keeps FATAL at 0, so one that ends in FATAL has raised its cause. -/
theorem faultsArePrecise : Obligations.FaultsArePrecise := by
  intro i s t hrun h hfatal
  rcases frame_of_exec h with ⟨c, info, hc, rfl⟩ | hframe
  · exact ⟨hc, rfl⟩
  · obtain ⟨hkeep, -⟩ := hframe.fault
    exact absurd (hfatal.symm.trans (hkeep.trans hrun)) (by decide)

/-! ### The four fatal conditions (R152 to R156) -/

/-- The condition under which an instruction raises its cause at `s`; `faultCondition_iff` writes it out as R152 lists it. -/
def FaultCondition (s : State) : Instr → Prop
  | .call _ => s.sp.val = 16
  | .ret => s.sp.val = 0
  | .drw _ _ n => ¬InBounds s.cfg s.i n.toNat
  | .ldB _ => ¬InBounds s.cfg s.i 3
  | .ldMemVx x | .ldVxMem x => ¬InBounds s.cfg s.i (x.toNat + 1)
  | .skp x | .sknp x => s.cfg.keyPolicy = .fault ∧ (s.reg x).toNat > 15
  | _ => False

theorem faultCondition_iff (s : State) (i : Instr) : FaultCondition s i ↔
    ((∃ nnn, i = .call nnn) ∧ s.sp.val = 16) ∨ (i = .ret ∧ s.sp.val = 0) ∨
    ((∃ x y n, i = .drw x y n ∧ ¬InBounds s.cfg s.i n.toNat) ∨ (∃ x, i = .ldB x ∧ ¬InBounds s.cfg s.i 3) ∨
      (∃ x, (i = .ldMemVx x ∨ i = .ldVxMem x) ∧ ¬InBounds s.cfg s.i (x.toNat + 1))) ∨
    (∃ x, (i = .skp x ∨ i = .sknp x) ∧ s.cfg.keyPolicy = .fault ∧ (s.reg x).toNat > 15) := by
  cases i <;> simp [FaultCondition]

/-- Under its condition an instruction faults. -/
theorem exec_of_faultCondition {s : State} {i : Instr} (h : FaultCondition s i) :
    ∃ c info, exec i s = .next (faulted s c (encode i) info) := by
  cases i with
  | call nnn => exact ⟨_, _, exec_call_of_full nnn h⟩
  | ret => exact ⟨_, _, exec_ret_of_empty h⟩
  | drw x y n => exact ⟨_, _, exec_drw_outOfBounds h⟩
  | ldB x => exact ⟨_, _, exec_ldB_outOfBounds h⟩
  | ldMemVx x => exact ⟨_, _, exec_ldMemVx_outOfBounds h⟩
  | ldVxMem x => exact ⟨_, _, exec_ldVxMem_outOfBounds h⟩
  | skp x =>
    obtain ⟨hskp, -⟩ := keyIndexAboveFifteenIsFatal s x h.1 h.2
    exact ⟨_, _, hskp⟩
  | sknp x =>
    obtain ⟨-, hsknp⟩ := keyIndexAboveFifteenIsFatal s x h.1 h.2
    exact ⟨_, _, hsknp⟩
  | _ => exact h.elim

theorem exec_frame_of_possibleCause_none {i : Instr} (s : State) (h : possibleCause i = none) :
    ∃ t regs parts, exec i s = .next t ∧ Frame s t regs parts := by
  rcases exec_frame i s with ⟨c, info, hc, -⟩ | ⟨t, ht, hframe⟩
  · cases h.symm.trans hc
  · exact ⟨t, _, _, ht, hframe⟩

/-- An index that does not fault names a key, in the terms of `keyTestsSkip`. -/
theorem exists_namedKey_of_not_fault {cfg : Config} {u : Byte} (h : ¬(cfg.keyPolicy = .fault ∧ u.toNat > 15)) :
    ∃ k, u.toNat ≤ 15 ∧ k = u.toNat ∨ cfg.keyPolicy = .mask4 ∧ k = u.toNat % 16 := by
  cases hpolicy : cfg.keyPolicy with
  | fault => exact ⟨_, .inl ⟨Nat.le_of_not_lt fun hu => h ⟨hpolicy, hu⟩, rfl⟩⟩
  | mask4 => exact ⟨_, .inr ⟨rfl, rfl⟩⟩

/-- Outside its condition an instruction keeps a frame, and with it FATAL: for the eight that can raise a cause by the
result of each, for all others because they have no cause. -/
theorem exec_of_not_faultCondition {s : State} {i : Instr} (h : ¬FaultCondition s i) :
    ∃ t regs parts, exec i s = .next t ∧ Frame s t regs parts := by
  cases i with
  | call nnn =>
    obtain ⟨t, ht, -, -, -, hframe⟩ :=
      (callPushesTheReturnAddress s nnn).1 (lt_of_le_of_ne (Nat.le_of_lt_succ s.sp.isLt) h)
    exact ⟨t, _, _, ht, hframe⟩
  | ret =>
    obtain ⟨t, ht, -, -, -, hframe⟩ := (returnPopsThePc s).1 (Nat.pos_of_ne_zero h)
    exact ⟨t, _, _, ht, hframe⟩
  | drw x y n => exact ⟨_, _, _, exec_drw_inBounds (not_not.1 h), frame_blit s (nodup_drawnPixels s x y n)⟩
  | ldB x => exact ⟨_, _, _, exec_ldB_inBounds (not_not.1 h), frame_writeBytes s _ _⟩
  | ldMemVx x =>
    obtain ⟨t, ht, -, -, -, hframe⟩ := blockStoreWritesTheRegisters s x (not_not.1 h)
    exact ⟨t, _, _, ht, hframe⟩
  | ldVxMem x =>
    obtain ⟨t, ht, -, -, -, hframe⟩ := blockLoadReadsTheRegisters s x (not_not.1 h)
    exact ⟨t, _, _, ht, hframe⟩
  | skp x =>
    obtain ⟨k, hk⟩ := exists_namedKey_of_not_fault h
    obtain ⟨⟨t, ht, hframe, -⟩, -⟩ := keyTestsSkip s x k hk
    exact ⟨t, _, _, ht, hframe⟩
  | sknp x =>
    obtain ⟨k, hk⟩ := exists_namedKey_of_not_fault h
    obtain ⟨-, t, ht, hframe, -⟩ := keyTestsSkip s x k hk
    exact ⟨t, _, _, ht, hframe⟩
  | _ => exact exec_frame_of_possibleCause_none s rfl

/-- Settles O53: under its condition an instruction faults, and outside it FATAL stays 0. -/
theorem fatalExactlyOnTheFourConditions : Obligations.FatalExactlyOnTheFourConditions := by
  intro i s t hrun h
  rw [← faultCondition_iff]
  by_cases hcond : FaultCondition s i
  · obtain ⟨c, info, hexec⟩ := exec_of_faultCondition hcond
    obtain rfl := Host.Outcome.next.inj (hexec.symm.trans h)
    exact iff_of_true rfl hcond
  · obtain ⟨u, regs, parts, hexec, hframe⟩ := exec_of_not_faultCondition hcond
    obtain rfl := Host.Outcome.next.inj (hexec.symm.trans h)
    obtain ⟨hkeep, -⟩ := hframe.fault
    exact iff_of_false (Bool.eq_false_iff.1 (hkeep.trans hrun)) hcond

/-! ### The fault of a fetch (R155) -/

/-- While running, a cycle whose fetch fails enters FATAL; no instruction runs and `PC` stays (R80, R151). -/
theorem cycle_of_fetch_error {s : State} {e : Word} (hrun : s.running) (he : s.fetch = .error e) :
    cycle s = .next (s.enterFatal { cause := .memoryBounds, addr := s.pc, op := 0, info := e }) := by
  rcases cycle_cases hrun with ⟨e', he', hc⟩ | ⟨w, hw, -⟩
  · cases he.symm.trans he'
    exact hc
  · cases he.symm.trans hw

/-- Settles O7: the cycle enters FATAL, in which the gap only uses the input up. -/
theorem fetchAboveMemoryIsFatal : Obligations.FetchAboveMemoryIsFatal := by
  intro s hrun hpolicy hpc
  have hfetch : s.fetch = .error (lowestBad s.pc) :=
    fetch_error (not_inBounds_of_fault hpolicy (by decide) (by omega))
  have hstep := step_of_cycle hrun (cycle_of_fetch_error hrun hfetch)
  rw [gap_of_fatal rfl] at hstep
  exact ⟨_, hstep, rfl, rfl, rfl⟩

/-! ### The environment's operations in FATAL (R159, R163) -/

theorem tickIf_of_fatal {s : State} (h : s.fatal = true) (occurs : Bool) : s.tickIf occurs = s := if_pos h

theorem keysIf_of_fatal {s : State} (h : s.fatal = true) (keys : Option (BitVec 16)) : s.keysIf keys = s := if_pos h

/-- A load that has a meaning writes the rom and changes nothing but MEM (20_memory.md R52). -/
theorem frame_hostLoad {s t : State} {bytes : List Byte} (h : s.hostLoad bytes = .next t) :
    Frame s t [] [.memory] := by
  unfold State.hostLoad at h
  split at h
  · obtain rfl := Host.Outcome.next.inj h
    exact frame_writeBytes s _ _
  · cases h

/-- Settles O9. -/
theorem onlyResetLeavesFatal : Obligations.OnlyResetLeavesFatal := by
  intro s h
  refine ⟨cycle_of_fatal h, step_of_fatal h, tickIf_of_fatal h true, fun k => keysIf_of_fatal h (some k),
    fun bytes t hload => ?_, fun _ _ => rfl, rfl⟩
  obtain ⟨hkeep, -⟩ := (frame_hostLoad hload).fault
  exact hkeep.trans h

/-! ### The tick (R160, R162) -/

/-- A tick while running counts both timers down and changes nothing else. -/
theorem timerTick_of_running {s : State} (h : s.running) :
    s.timerTick = { s with dt := countDown s.dt, st := countDown s.st } := if_neg (Bool.eq_false_iff.1 h)

/-- Settles O49. -/
theorem tickCountsDownNonzeroTimers : Obligations.TickCountsDownNonzeroTimers := by
  intro s hrun
  rw [timerTick_of_running hrun]
  exact ⟨countDown_toNat s.dt, countDown_toNat s.st, rfl⟩

theorem iterate_countDown_toNat (k : Nat) (u : Byte) : (countDown^[k] u).toNat = u.toNat - k := by
  induction k with
  | zero => rfl
  | succ k ih => rw [Function.iterate_succ_apply', countDown_toNat, ih, Nat.sub_sub]

/-- `k` ticks while running are `k` countdowns of each timer. -/
theorem iterate_timerTick {s : State} (h : s.running) (k : Nat) :
    State.timerTick^[k] s = { s with dt := countDown^[k] s.dt, st := countDown^[k] s.st } := by
  induction k with
  | zero => rfl
  | succ k ih =>
    simp only [Function.iterate_succ_apply', ih]
    exact timerTick_of_running h

theorem ite_le_sub_eq_sub (n k : Nat) : (if k ≤ n then n - k else 0) = n - k := by
  split <;> omega

/-- Settles O50. -/
theorem timerReachesZeroAfterExactlyNTicks : Obligations.TimerReachesZeroAfterExactlyNTicks := by
  intro s k hrun
  rw [iterate_timerTick hrun, ite_le_sub_eq_sub, ite_le_sub_eq_sub]
  exact ⟨iterate_countDown_toNat k s.dt, iterate_countDown_toNat k s.st⟩

/-! ### Fair ticks (R161, R162) -/

/-- A step that ends outside FATAL has fetched a word and run its instruction without a fault. -/
theorem step_cases_of_running {s t : State} (h : step s = .next t) (ht : t.running) :
    ∃ w u, s.fetch = .ok w ∧ exec (decodeWord w) s.advance = .next u ∧ u.running ∧ t = u.gap s.input := by
  rcases step_cases h with ⟨hfatal, rfl⟩ | ⟨hrun, u, hu, rfl⟩
  · exact absurd (hfatal.symm.trans ht) (by decide)
  · have hurun : u.running := (gap_fatal u s.input).symm.trans ht
    rcases cycle_cases hrun with ⟨e, -, hc⟩ | ⟨w, hw, hc⟩
    · obtain rfl := Host.Outcome.next.inj (hu.symm.trans hc)
      cases hurun
    · exact ⟨w, u, hw, hc.symm.trans hu, hurun, rfl⟩

/-- The timers over an iteration of a run outside FATAL: where the cycle does not write a timer, the tick of the gap is all
that changes it (10_state.md R20, R21). The fetch does not depend on the input that the schedule supplies. -/
theorem timers_of_runsUnder {e : Nat → LoopInput} {σ : Nat → State} (hruns : RunsUnder e σ)
    (hrun : ∀ k, (σ k).running) (k : Nat) : ∃ w, (σ k).fetch = .ok w ∧
      ((∀ x, decodeWord w ≠ .ldDtVx x) → (σ (k + 1)).dt = if (e k).tick then countDown (σ k).dt else (σ k).dt) ∧
      ((∀ x, decodeWord w ≠ .ldStVx x) → (σ (k + 1)).st = if (e k).tick then countDown (σ k).st else (σ k).st) := by
  obtain ⟨l, hinput, hstep⟩ := hruns k
  obtain ⟨w, u, hw, hexec, hurun, hgap⟩ := step_cases_of_running hstep (hrun (k + 1))
  obtain ⟨-, hdt, hst, -⟩ := specialRegistersHaveTheirWriters _ _ _ hexec
  have hdt' : (∀ x, decodeWord w ≠ .ldDtVx x) → u.dt = (σ k).dt := hdt
  have hst' : (∀ x, decodeWord w ≠ .ldStVx x) → u.st = (σ k).st := hst
  rw [hgap, hinput, gap_of_running hurun]
  refine ⟨w, hw, fun hx => ?_, fun hx => ?_⟩
  · rw [← hdt' hx]
    rfl
  · rw [← hst' hx]
    rfl

/-- A timer that only ticks change is 0 from some iteration on, since each tick it still has to wait for comes: by
induction on a bound `v` that it meets at some iteration `k`. -/
theorem eventually_zero_of_fairTicks {e : Nat → LoopInput} {timer : Nat → Byte} (hfair : FairTicks e)
    (htimer : ∀ k, timer (k + 1) = if (e k).tick then countDown (timer k) else timer k) :
    ∃ n, ∀ k, n ≤ k → timer k = 0 := by
  have hcount : ∀ k, (timer (k + 1)).toNat = if (e k).tick then (timer k).toNat - 1 else (timer k).toNat :=
    fun k => by rw [htimer, ite_countDown_toNat]
  have hanti : Antitone fun k => (timer k).toNat := antitone_nat_of_succ_le fun k => by
    rw [hcount]
    split <;> omega
  have hbound : ∀ v k, (timer k).toNat ≤ v → ∃ n, ∀ j, n ≤ j → timer j = 0 := by
    intro v
    induction v with
    | zero =>
      exact fun k hk => ⟨k, fun j hj => BitVec.eq_of_toNat_eq (Nat.eq_zero_of_le_zero ((hanti hj).trans hk))⟩
    | succ v ih =>
      intro k hk
      obtain ⟨m, hkm, htick⟩ := hfair k
      have hdown : (timer (m + 1)).toNat = (timer m).toNat - 1 := (hcount m).trans (if_pos htick)
      have hmono : (timer m).toNat ≤ (timer k).toNat := hanti hkm
      exact ih (m + 1) (by omega)
  exact hbound _ 0 le_rfl

/-- Settles O51: over each iteration ticks alone change the timer that no cycle writes. -/
theorem fairTicksBringTheTimersToZero : Obligations.FairTicksBringTheTimersToZero := by
  intro e σ hfair hruns hrun
  refine ⟨fun hdt => eventually_zero_of_fairTicks hfair fun k => ?_,
    fun hst => eventually_zero_of_fairTicks hfair fun k => ?_⟩
  · obtain ⟨w, hw, htimer, -⟩ := timers_of_runsUnder hruns hrun k
    exact htimer fun x => hdt k w x hw
  · obtain ⟨w, hw, -, htimer⟩ := timers_of_runsUnder hruns hrun k
    exact htimer fun x => hst k w x hw

end Sys2Proof.Machine
end

section
/-! PROOFS. Hazards (70_reset_and_hazards.md): which instructions can change the memory that instructions are fetched
from. -/

namespace Sys2Proof.Machine

/-- Settles O38: of the three things an instruction can do to MEM, the two stores are those of FX33 and FX55, and bytes
read the same where MEM and the configuration stay. -/
theorem onlyTwoInstructionsStore : Obligations.OnlyTwoInstructionsStore := by
  intro i s t h hldB hldMemVx
  have hmem : t.mem = s.mem := by
    obtain ⟨u, hu, hcases⟩ := exec_mem i s
    obtain rfl := Host.Outcome.next.inj (h.symm.trans hu)
    rcases hcases with hsame | ⟨x, hi, -⟩ | ⟨x, hi, -⟩
    · exact hsame
    · exact absurd hi (hldB x)
    · exact absurd hi (hldMemVx x)
  exact ⟨hmem, readByte_congr hmem (cfg_of_exec h)⟩

end Sys2Proof.Machine
end

section
/-! PROOFS. The decoding vectors (95_test_vectors.md): each word is the word of the instruction listed for it. -/

namespace Sys2Proof

theorem decodeWord_of_encode_eq {i : Instr} {w : Word} (hwf : i.wf = true) (hword : encode i = w) :
    decodeWord w = i :=
  hword ▸ decodeWord_encode hwf

/-- Settles O12: each listed instruction is well-formed and encodes to its word, which therefore decodes to it; the two
bytes of T-E21 are those of its word, the high byte first (R41). -/
theorem vectorWordsDecode : Obligations.VectorWordsDecode := by
  have hjp : decodeWord 0x1234 = .jp 0x234 := decodeWord_of_encode_eq rfl rfl
  have hbytes : decode [0x12, 0x34] = .ok (.jp 0x234, []) := hjp ▸ decode_bytesOfWord 0x1234
  and_intros
  on_goal 22 => exact hbytes
  all_goals exact decodeWord_of_encode_eq rfl rfl

end Sys2Proof
end
